-- ==== Sys2Proof/Word.lean ====
section
/-! DEFINITION. The fixed-width values of CORE (spec/30_encoding.md R60): there are no others.
Bits are numbered from 0 at the least significant one (spec/00_scope.md R8). -/

namespace Sys2Proof

/-- A byte of the raw stream (a codeword, R61) or of a frame (R64). -/
abbrev Byte := BitVec 8

/-- The 4 data bits recovered from one codeword (R63). -/
abbrev Nibble := BitVec 4

/-- An XOR of position indices 1 to 7, so 3 bits (R62, R92). -/
abbrev Syndrome := BitVec 3

/-- The operation-select word `rst, st, in_valid, in_eos, in_data[7:0]`, bit 11 first (R78). -/
abbrev Osw := BitVec 12

/-- A full window, `W[0]` to `W[29]` (R66): the only operand ASM accepts (R111). -/
abbrev Codewords := Vector Byte 30

/-- A frame, `F[0]` to `F[14]` (R65): the only operand VAL accepts (R121). -/
abbrev Frame := Vector Byte 15

/-- A payload, `P[0]` to `P[11]` (R68). -/
abbrev Payload := Vector Byte 12

/-- The payload bus `out_data[95:0]` (R70, R73). -/
abbrev Bus := BitVec 96

end Sys2Proof
end

