-- ==== Sys2Proof/Config.lean ====
section
/-! DEFINITION. The fixed parameters of spec/00_scope.md R6. Every one is a constant of the hardware and none is a
register. The spec leaves no computed value open (spec/92_eei_decisions.md, "Parameters left open"), so there is no free
value here. -/

namespace Sys2Proof.Config

/-- WIN_LEN: codewords in a full window. -/
abbrev winLen : Nat := 30

/-- FRAME_LEN: bytes in a frame. -/
abbrev frameLen : Nat := 15

/-- SYNC: the value of frame bytes 0 and 1. -/
abbrev sync : Byte := 0xAA#8

/-- PAY_OFF: the frame index of the first payload byte. -/
abbrev payOff : Nat := 2

/-- PAY_LEN: payload bytes in a frame. -/
abbrev payLen : Nat := 12

/-- CK_IDX: the frame index of the checksum byte. -/
abbrev ckIdx : Nat := 14

/-- SLIDE: codewords discarded after a failed check. -/
abbrev slide : Nat := 1

/-- The codeword bit positions that enter the syndrome, with position 0 left out (R6, R62). -/
def checkedPositions : List Nat := [1, 2, 3, 4, 5, 6, 7]

/-- The codeword bits that carry parity (R6, R61). -/
def parityPositions : List Nat := [1, 2, 4]

/-- The codeword bits that carry data, most significant first (R6, R61). -/
def dataPositions : List Nat := [7, 6, 5, 3]

end Sys2Proof.Config
end

