-- ==== Sys2Proof/Syntax.lean ====
section
/-! DEFINITION. The eleven rows of spec/opcode_table.json: five operations, selected by an operation-select word
(spec/30_encoding.md R78), and six pure datapath functions, selected by no encoding (R80). Operand types are exact, so
that a wrong length cannot be written (spec/41_frame_assembler.md R111, spec/42_frame_validator.md R121). -/

namespace Sys2Proof

/-- One constructor per row of the table, in the table's order. -/
inductive Instr where
  /-- RESET: empty the window (R200). -/
  | reset
  /-- CHECK: one attempt on the full window (R140). -/
  | check
  /-- PUSH: append the byte of the transferred beat (R138). -/
  | push (b : Byte)
  /-- EOS: end of stream, the partial window is discarded (R146). -/
  | eos
  /-- IDLE: nothing offered (R148). -/
  | idle
  /-- SYND applied to a codeword (R92). -/
  | synd (c : Byte)
  /-- CORR applied to a codeword (R94). -/
  | corr (c : Byte)
  /-- EXTR applied to a codeword (R95). -/
  | extr (c : Byte)
  /-- DECN applied to a codeword (R96). -/
  | decn (c : Byte)
  /-- ASM applied to 30 codewords (R110). -/
  | asm (w : Codewords)
  /-- VAL applied to a frame (R120). -/
  | val (f : Frame)
  deriving DecidableEq, Repr

end Sys2Proof
end

