-- ==== Sys2Proof/WellFormed.lean ====
section
/-! DEFINITION. Which rows can be a step of the machine. The operand types of `Instr` are exact, so no operand is left to
check; the one thing a term can get wrong is to stand for a step of CORE while no operation-select word selects it
(spec/30_encoding.md R78, R80). -/

namespace Sys2Proof

/-- The two formats of the opcode table (R85). -/
inductive Format where
  /-- A row with a mask and a match, selected by the operation-select word (R78). -/
  | osw
  /-- A pure function of the datapath, selected by no encoding (R80). -/
  | function
  deriving DecidableEq, Repr

/-- The `format` column of spec/opcode_table.json. -/
def Instr.format : Instr → Format
  | .reset => .osw
  | .check => .osw
  | .push _ => .osw
  | .eos => .osw
  | .idle => .osw
  | .synd _ => .function
  | .corr _ => .function
  | .extr _ => .function
  | .decn _ => .function
  | .asm _ => .function
  | .val _ => .function

/-- The instruction is one of the five operations CORE can perform at a clock edge (R78). -/
def Instr.wellFormed (i : Instr) : Bool :=
  i.format == .osw

end Sys2Proof
end

