-- ==== Sys2Proof/Decode.lean ====
section
/-! DEFINITION. From bits to rows and back. An operation-select word always selects an operation
(spec/30_encoding.md R78, R79). A function row is named, not selected (R80); its bits are the operand in the layout of
R85. Bytes that are neither are rejected by name. -/

namespace Sys2Proof

/-! ### The operation-select word (R78) -/

/-- `OSW = (rst, st, in_valid, in_eos, in_data)`, bit 11 first (R78). -/
def packOsw (rst st inValid inEos : Bool) (inData : Byte) : Osw :=
  BitVec.ofBool rst ++ BitVec.ofBool st ++ BitVec.ofBool inValid ++ BitVec.ofBool inEos ++ inData

/-- Bit 11, `rst`. -/
def oswRst (w : Osw) : Bool := w.getLsbD 11

/-- Bit 10, `st` (1 is Checking, R77). -/
def oswSt (w : Osw) : Bool := w.getLsbD 10

/-- Bit 9, `in_valid`. -/
def oswInValid (w : Osw) : Bool := w.getLsbD 9

/-- Bit 8, `in_eos`. -/
def oswInEos (w : Osw) : Bool := w.getLsbD 8

/-- Bits 7:0, `in_data`. -/
def oswInData (w : Osw) : Byte := w.extractLsb' 0 8

/-- The operation a word selects, by the cascade of R79: `rst`, then `st`, then `in_valid`, then `in_eos`. -/
def decodeOsw (w : Osw) : Instr :=
  if oswRst w then .reset
  else if oswSt w then .check
  else if !oswInValid w then .idle
  else if oswInEos w then .eos
  else .push (oswInData w)

/-- The rows of R78 that have a mask and a match, by name. -/
inductive OpName where
  | reset
  | check
  | push
  | eos
  | idle
  deriving DecidableEq, Repr

/-- A row of the operation map: the word matches it when `word &&& mask = pattern` (R78). -/
structure OpRow where
  name : OpName
  mask : Osw
  pattern : Osw
  deriving DecidableEq, Repr

/-- The operation map of R78, in the order of the rule's table. -/
def opRows : List OpRow :=
  [ ⟨.reset, 0x800#12, 0x800#12⟩,
    ⟨.check, 0xC00#12, 0x400#12⟩,
    ⟨.push, 0xF00#12, 0x200#12⟩,
    ⟨.eos, 0xF00#12, 0x300#12⟩,
    ⟨.idle, 0xE00#12, 0x000#12⟩ ]

/-- The word matches the row (R78). -/
def OpRow.matchesWord (r : OpRow) (w : Osw) : Bool :=
  w &&& r.mask == r.pattern

/-- The row an operation belongs to; a function has none (R80). -/
def Instr.opName : Instr → Option OpName
  | .reset => some .reset
  | .check => some .check
  | .push _ => some .push
  | .eos => some .eos
  | .idle => some .idle
  | .synd _ => none
  | .corr _ => none
  | .extr _ => none
  | .decn _ => none
  | .asm _ => none
  | .val _ => none

/-! ### The operand layouts of the function rows (R85) -/

/-- The six function rows (R80). -/
inductive FnName where
  | synd
  | corr
  | extr
  | decn
  | asm
  | val
  deriving DecidableEq, Repr

/-- Why bits stand for no row. -/
inductive DecodeError where
  /-- An operation-select word is 12 bits, so it fills exactly two bytes. -/
  | oswNotTwoBytes
  /-- Bits 15:12 above an operation-select word are not zero. -/
  | bitsAboveOsw
  /-- A codeword function takes exactly one byte (R61). -/
  | codewordNotOneByte
  /-- ASM "Requires exactly 30 input bytes" (R111). -/
  | assemblerInputNot30Bytes
  /-- VAL "Requires exactly 15 input bytes" (R121). -/
  | validatorInputNot15Bytes
  deriving DecidableEq, Repr

/-- A list of exactly `n` bytes as a vector; no padding and no truncation (R111, R121). -/
def vectorOf? (n : Nat) (l : List Byte) : Option (Vector Byte n) :=
  if h : l.length = n then some ⟨l.toArray, by simpa using h⟩ else none

/-- The one byte of a codeword operand. -/
def codewordOf : List Byte → Except DecodeError Byte
  | [c] => .ok c
  | _ => .error .codewordNotOneByte

/-- The row `n` applied to the operand whose bytes are `bytes`, index 0 first (R85). -/
def decodeFn (n : FnName) (bytes : List Byte) : Except DecodeError Instr :=
  match n with
  | .synd => (codewordOf bytes).map .synd
  | .corr => (codewordOf bytes).map .corr
  | .extr => (codewordOf bytes).map .extr
  | .decn => (codewordOf bytes).map .decn
  | .asm =>
    match vectorOf? 30 bytes with
    | some w => .ok (.asm w)
    | none => .error .assemblerInputNot30Bytes
  | .val =>
    match vectorOf? 15 bytes with
    | some f => .ok (.val f)
    | none => .error .validatorInputNot15Bytes

/-! ### Rows as words -/

/-- What a row is on the outside: an operation-select word, or a named function with the bytes of its operand. -/
inductive Encoding where
  | word (w : Osw)
  | operand (n : FnName) (bytes : List Byte)
  deriving DecidableEq, Repr

/-- Decoding, total, rejecting by name. -/
def decode : Encoding → Except DecodeError Instr
  | .word w => .ok (decodeOsw w)
  | .operand n bytes => decodeFn n bytes

/-- An operation-select word as two bytes, `in_data` first and then bits 11:8 in the low half of the second
byte with zeros above. DESIGN CHOICE (log entry 1, safe): the hardware stores no such word. -/
def decodeBytes : List Byte → Except DecodeError Instr
  | [lo, hi] =>
    if hi &&& 0xF0#8 = 0#8 then .ok (decodeOsw (hi.extractLsb' 0 4 ++ lo)) else .error .bitsAboveOsw
  | _ => .error .oswNotTwoBytes

/-- The row's words: the pattern of R78 with every ignored bit 0, or the operand's bytes in the layout of R85. -/
def encode : Instr → Encoding
  | .reset => .word 0x800#12
  | .check => .word 0x400#12
  | .push b => .word (0x2#4 ++ b)
  | .eos => .word 0x300#12
  | .idle => .word 0x000#12
  | .synd c => .operand .synd [c]
  | .corr c => .operand .corr [c]
  | .extr c => .operand .extr [c]
  | .decn c => .operand .decn [c]
  | .asm w => .operand .asm w.toList
  | .val f => .operand .val f.toList

/-- What the decoder reads from a table word. Only the `osw` rows have words (12 bits, 16 in whole bytes); a
function row is selected by no encoding (R80), so a word of any other width is no instruction (log entry 6). -/
def decodeTableWord (nbits w : Nat) : Option Instr :=
  if (nbits = 12 ∨ nbits = 16) ∧ w < 2 ^ nbits then
    match decodeBytes [BitVec.ofNat 8 w, BitVec.ofNat 8 (w / 256)] with
    | .ok i => some i
    | .error _ => none
  else none

end Sys2Proof
end

