-- ==== Sys2Proof/Machine/State.lean ====
section
/-! DEFINITION. The state: CORE's own, which is the window and the state register and nothing else
(spec/10_state.md R20 to R32), and the host side's, which the spec says is not state of CORE (R28): what the source and
the reset driver present, and what the sink and the observer took. -/

namespace Sys2Proof.Machine

/-- The state register `st` (R23). -/
inductive SyncState where
  /-- "window length < 30 — append next source byte". -/
  | filling
  /-- "window length == 30 — assemble and validate". -/
  | checking
  deriving DecidableEq, Repr

/-- The verdict, a closed type of three values (R69). -/
inductive Verdict where
  /-- "sync bytes missing/mismatched". -/
  | noSync
  /-- "sync present, checksum mismatch". -/
  | wrongChecksum
  /-- "frame valid". -/
  | good
  deriving DecidableEq, Repr

/-- An event of the untimed model (R137). -/
inductive Event where
  /-- The source delivers a byte. -/
  | byte (b : Byte)
  /-- The source signals end-of-stream. -/
  | endOfStream
  /-- The source has nothing. -/
  | nothing
  /-- A reset. -/
  | reset
  deriving DecidableEq, Repr

/-- The sampled inputs of one rising edge (R70, R150). They are clean Booleans and bytes (R214). -/
structure Pins where
  rst : Bool
  inValid : Bool
  inEos : Bool
  inData : Byte
  deriving DecidableEq, Repr

/-- One item of what the environment presents (log entries 2 and 3). -/
inductive Stim where
  /-- An event of R137, offered until it is taken (R71, R210). -/
  | event (e : Event)
  /-- The pins of exactly one edge, whatever becomes of them (a source that withdraws a beat too: U12). -/
  | cycle (p : Pins)
  deriving DecidableEq, Repr

/-- The output of one operation (R137): absent where the ports are not valid (R75). -/
structure Output where
  verdict : Option Verdict
  payload : Option Payload
  deriving DecidableEq, Repr

/-- No verdict and no payload. -/
abbrev Output.silent : Output := ⟨none, none⟩

/-- The result of a datapath function (R80). -/
inductive FnValue where
  /-- Of SYND. -/
  | syndrome (v : Syndrome)
  /-- Of CORR. -/
  | codeword (v : Byte)
  /-- Of EXTR and of DECN. -/
  | nibble (v : Nibble)
  /-- Of ASM. -/
  | frame (v : Frame)
  /-- Of VAL. -/
  | verdict (v : Verdict)
  deriving DecidableEq, Repr

/-- The machine. `window` and `st` are CORE's; the rest is the host side's. -/
structure State where
  /-- `W[0]`, ..., `W[len-1]`, oldest first (R20, R21). -/
  window : List Byte
  /-- The state register (R23). -/
  st : SyncState
  /-- What the source and the reset driver present, next first (log entry 2). -/
  inputs : List Stim
  /-- The output of the operation just performed (R137, log entry 4). -/
  out : Output
  /-- The verdict events the observer received, oldest first (R14, R74, log entry 4). -/
  observer : List Verdict
  /-- The payloads the sink received, oldest first (R14, R73, log entry 4). -/
  sink : List Payload
  /-- The result of the datapath function last applied to an operand of its own (R80, log entry 5). -/
  probe : Option FnValue
  deriving DecidableEq, Repr

/-- The state after RESET (R31, R200), with a host side that has presented and received nothing
(DESIGN CHOICE, log entry 13, unsafe). -/
def State.reset : State where
  window := []
  st := .filling
  inputs := []
  out := .silent
  observer := []
  sink := []
  probe := none

/-- What stops the machine. CORE has no fault on any reachable state (R170). -/
inductive Fault where
  /-- An assembler input that is not 30 bytes, a fatal caller error (R111, R172). Raised by CHECK alone, when `st` is
  Checking and the window is not full, which no reachable state is (R32). Safe. -/
  | assemblerContract
  deriving DecidableEq, Repr

/-- What has no meaning. -/
inductive Refusal where
  /-- The row has no meaning in this model yet. Raised by no arm of `exec`. Safe. -/
  | notModelled (mnemonic : String)
  /-- A PUSH, EOS or IDLE while `st` is Checking, or a CHECK while `st` is Filling: the operation's "requires" line
  is not met (R24, R138, R140, R146, R148), and no operation-select word selects it there (R78). Safe. -/
  | notEnabled
  deriving DecidableEq, Repr

end Sys2Proof.Machine
end

