-- ==== Sys2Proof/Machine/Operands.lean ====
section
/-! DEFINITION. How values are assembled from bits: the nibble decoder (spec/40_nibble_decoder.md), the frame assembler
(spec/41_frame_assembler.md), the payload and its bus (spec/20_memory.md R43, R44; spec/30_encoding.md R67, R68). -/

namespace Sys2Proof.Machine

/-- SYND: XOR into 0 the index of every checked position whose bit is set (R92). -/
def synd (c : Byte) : Syndrome :=
  Config.checkedPositions.foldl (fun acc p => if c.getLsbD p then acc ^^^ BitVec.ofNat 3 p else acc) 0#3

/-- CORR: flip the bit whose position is the syndrome, if there is one (R94). -/
def corr (c : Byte) : Byte :=
  if synd c ≠ 0#3 then c ^^^ (0b00000001#8 <<< (synd c).toNat) else c

/-- EXTR: the data bits 7, 6, 5, 3, most significant first (R63, R95). -/
def extr (c : Byte) : Nibble :=
  BitVec.ofBool (c.getLsbD 7) ++ BitVec.ofBool (c.getLsbD 6) ++ BitVec.ofBool (c.getLsbD 5) ++
    BitVec.ofBool (c.getLsbD 3)

/-- DECN: extract from the corrected codeword (R96). -/
def decn (c : Byte) : Nibble :=
  extr (corr c)

/-- Two nibbles as a frame byte, the first in bits 7:4 (R64, R67). -/
def packNibbles (hi lo : Nibble) : Byte :=
  (hi.setWidth 8 <<< 4) ||| lo.setWidth 8

/-- ASM: frame byte `j` is made of the nibbles of codewords `2j` and `2j + 1` (R46, R110). -/
def asm (w : Codewords) : Frame :=
  Vector.ofFn fun j : Fin 15 => packNibbles (decn w[2 * j.val]) (decn w[2 * j.val + 1])

/-- The payload `F[2..14)`: `P[k] = F[2 + k]` (R44, R68). -/
def payloadOf (f : Frame) : Payload :=
  Vector.ofFn fun k : Fin 12 => f[2 + k.val]

/-- The payload on the bus, `P[k]` in bits `8k+7:8k` (R44, R73). -/
def payloadBus (p : Payload) : Bus :=
  p[11] ++ p[10] ++ p[9] ++ p[8] ++ p[7] ++ p[6] ++ p[5] ++ p[4] ++ p[3] ++ p[2] ++ p[1] ++ p[0]

/-- The window as the operand of ASM: there is one only when it holds exactly 30 bytes (R111). -/
def fullWindow (w : List Byte) : Option Codewords :=
  vectorOf? 30 w

end Sys2Proof.Machine
end

