-- ==== Sys2Proof/Machine/Flags.lean ====
section
/-! DEFINITION. The verdict, which stands in the place of flags (spec/10_state.md R25): the frame validator
(spec/42_frame_validator.md) and the verdict's code (spec/30_encoding.md R69). -/

namespace Sys2Proof.Machine

/-- `XOR(s)`, with `XOR([]) = 0` (spec/00_scope.md R10). -/
def xorAll (l : List Byte) : Byte :=
  l.foldl (fun acc b => acc ^^^ b) 0#8

/-- `ck = XOR(F[2..14))` (R123). -/
def checksum (f : Frame) : Byte :=
  xorAll (payloadOf f).toList

/-- VAL: the sync test first, the checksum second (R120, R124). -/
def val (f : Frame) : Verdict :=
  if f[0] ≠ f[1] ∨ f[0] ≠ Config.sync then .noSync
  else if checksum f ≠ f[14] then .wrongChecksum
  else .good

/-- The code of a verdict on `ev_verdict[1:0]`; `0b11` is the code of none (R69). -/
def Verdict.code : Verdict → BitVec 2
  | .noSync => 0b00#2
  | .wrongChecksum => 0b01#2
  | .good => 0b10#2

end Sys2Proof.Machine
end

