-- ==== Sys2Proof/Machine/Ops.lean ====
section
/-! DEFINITION. The named operations on the state: the pseudocode primitives of spec/00_scope.md R10, the guard of an
operation's "requires" line, and the end of an attempt. CORE takes no exception and returns from none
(spec/60_exceptions.md R170, R176, R177): the nearest thing, a failing verdict and the slide that answers it, is
`State.conclude`, shared by every attempt. -/

namespace Sys2Proof.Machine

/-- The outcome of one operation or step. -/
abbrev Result := Host.Outcome State Fault Refusal

/-- The window length on the 5 bits of `len[4:0]` (R22, R76); it has no home of its own (log entry 15). -/
def State.len (s : State) : BitVec 5 :=
  BitVec.ofNat 5 s.window.length

/-- `WinAppend(b)`: `W <- W ++ [b]`. -/
def State.winAppend (s : State) (b : Byte) : State :=
  { s with window := s.window ++ [b] }

/-- `WinSlide()`: `W <- W[1..len)`, the oldest byte is gone (R143). -/
def State.winSlide (s : State) : State :=
  { s with window := s.window.drop Config.slide }

/-- `WinClear()`: `W <- []`. -/
def State.winClear (s : State) : State :=
  { s with window := [] }

/-- `st <- q`. -/
def State.setSt (s : State) (q : SyncState) : State :=
  { s with st := q }

/-- Nothing is presented on the outputs unless the operation presents it (R75, R201). -/
def State.silence (s : State) : State :=
  { s with out := .silent }

/-- `emit_verdict(v)`: one event, which the observer takes in the same cycle (R74, R213, log entry 4). -/
def State.emitVerdict (s : State) (v : Verdict) : State :=
  { s with out := { s.out with verdict := some v }, observer := s.observer ++ [v] }

/-- `emit_payload(p)`: one payload, which the sink takes in the same cycle (R73, R212, log entry 4). -/
def State.emitPayload (s : State) (p : Payload) : State :=
  { s with out := { s.out with payload := some p }, sink := s.sink ++ [p] }

/-- The result of a datapath function, which reads and writes nothing else (R80, R114, log entry 5). -/
def State.present (s : State) (v : FnValue) : State :=
  { s with probe := some v }

/-- The "requires st == q" line of an operation (R24). -/
def State.requireSt (s : State) (q : SyncState) (r : Result) : Result :=
  if s.st = q then r else .refused .notEnabled

/-- The end of an attempt on the frame `f` (R140): the verdict event; on Good the payload and the clear (R141); on
either failing verdict the slide (R143, R144); Filling in every case. -/
def State.conclude (s : State) (f : Frame) : State :=
  if val f = .good then
    ((((s.silence.emitVerdict (val f)).emitPayload (payloadOf f)).winClear).setSt .filling)
  else
    (((s.silence.emitVerdict (val f)).winSlide).setSt .filling)

end Sys2Proof.Machine
end

