-- ==== Sys2Proof/Machine/FrameAssembler.lean ====
section
/-! DEFINITION. ASM as a row of the table (spec/41_frame_assembler.md R110, R114). -/

namespace Sys2Proof.Machine

/-- ASM (R110). -/
def execAsm (w : Codewords) (s : State) : Result :=
  .next (s.present (.frame (asm w)))

end Sys2Proof.Machine
end

