-- ==== Sys2Proof/Machine/FrameValidator.lean ====
section
/-! DEFINITION. VAL as a row of the table (spec/42_frame_validator.md R120). -/

namespace Sys2Proof.Machine

/-- VAL (R120). -/
def execVal (f : Frame) (s : State) : Result :=
  .next (s.present (.verdict (val f)))

end Sys2Proof.Machine
end

