-- ==== Sys2Proof/Machine/NibbleDecoder.lean ====
section
/-! DEFINITION. The codeword functions as rows of the table (spec/40_nibble_decoder.md): each gives its result, reads no
state and writes none of CORE's (R90). -/

namespace Sys2Proof.Machine

/-- SYND (R92). -/
def execSynd (c : Byte) (s : State) : Result :=
  .next (s.present (.syndrome (synd c)))

/-- CORR (R94). -/
def execCorr (c : Byte) (s : State) : Result :=
  .next (s.present (.codeword (corr c)))

/-- EXTR (R95). -/
def execExtr (c : Byte) (s : State) : Result :=
  .next (s.present (.nibble (extr c)))

/-- DECN (R96). -/
def execDecn (c : Byte) (s : State) : Result :=
  .next (s.present (.nibble (decn c)))

end Sys2Proof.Machine
end

