-- ==== Sys2Proof/Machine/Reset.lean ====
section
/-! DEFINITION. RESET (spec/70_reset_and_hazards.md R200, R201). -/

namespace Sys2Proof.Machine

/-- RESET, in any state: the window is discarded unchecked, and nothing is presented (R200, R201). -/
def execReset (s : State) : Result :=
  .next ((s.silence.winClear).setSt .filling)

end Sys2Proof.Machine
end

