-- ==== Sys2Proof/Machine/StreamSynchronizer.lean ====
section
/-! DEFINITION. The operations of the synchronizer: PUSH, CHECK, EOS, IDLE (spec/43_stream_synchronizer.md). -/

namespace Sys2Proof.Machine

/-- CHECK: one attempt on the full window (R140). A window that is not full would break the assembler's contract
(R111, R172); in no reachable state is it (R32). -/
def execCheck (s : State) : Result :=
  s.requireSt .checking <|
    match fullWindow s.window with
    | some w => .next (s.conclude (asm w))
    | none => .fault .assemblerContract

/-- PUSH: store the byte as it is; the 30th makes the state Checking (R138, R139). -/
def execPush (b : Byte) (s : State) : Result :=
  s.requireSt .filling <|
    .next ((s.silence.winAppend b).setSt
      (if (s.winAppend b).window.length = Config.winLen then .checking else .filling))

/-- EOS: the partial window is discarded without emission (R146). -/
def execEos (s : State) : Result :=
  s.requireSt .filling <| .next ((s.silence.winClear).setSt .filling)

/-- IDLE: no state change, no output (R148). -/
def execIdle (s : State) : Result :=
  s.requireSt .filling <| .next s.silence

end Sys2Proof.Machine
end

