-- ==== Sys2Proof/Machine/Dispatch.lean ====
section
/-! DEFINITION. One arm per row of spec/opcode_table.json. -/

namespace Sys2Proof.Machine

def exec (i : Instr) (s : State) : Host.Outcome State Fault Refusal :=
  match i with
  | .reset => Sys2Proof.Machine.execReset s
  | .check => Sys2Proof.Machine.execCheck s
  | .push b => Sys2Proof.Machine.execPush b s
  | .eos => Sys2Proof.Machine.execEos s
  | .idle => Sys2Proof.Machine.execIdle s
  | .synd c => Sys2Proof.Machine.execSynd c s
  | .corr c => Sys2Proof.Machine.execCorr c s
  | .extr c => Sys2Proof.Machine.execExtr c s
  | .decn c => Sys2Proof.Machine.execDecn c s
  | .asm w => Sys2Proof.Machine.execAsm w s
  | .val f => Sys2Proof.Machine.execVal f s

end Sys2Proof.Machine
end

