-- ==== Sys2Proof/Machine/Fetch.lean ====
section
/-! DEFINITION. What stands in the place of fetching an instruction: sampling the pins at a rising edge, the word they
make with `st` (spec/30_encoding.md R78), and which item of the environment is used up by the edge (R71;
spec/43_stream_synchronizer.md R137, R150). -/

namespace Sys2Proof.Machine

/-- Nothing offered and no reset. The ignored bits are 0 (log entry 3; no operation reads them, R81). -/
def Pins.idle : Pins := ⟨false, false, false, 0#8⟩

/-- The beat on the pins, if one is offered (R71, R175). -/
def Pins.beat (p : Pins) : Option Event :=
  if p.inValid then (if p.inEos then some .endOfStream else some (.byte p.inData)) else none

/-- The pins that carry an event (R71). The ignored bits are 0 (log entry 3). -/
def Event.pins : Event → Pins
  | .byte b => ⟨false, true, false, b⟩
  | .endOfStream => ⟨false, true, true, 0#8⟩
  | .nothing => Pins.idle
  | .reset => ⟨true, false, false, 0#8⟩

/-- The pins of one item of the environment. -/
def Stim.pins : Stim → Pins
  | .event e => e.pins
  | .cycle p => p

/-- The pins sampled at the next edge; an environment that has nothing left offers nothing (log entry 2). -/
def State.pins (s : State) : Pins :=
  match s.inputs with
  | [] => Pins.idle
  | x :: _ => x.pins

/-- The operation-select word of the next edge (R78). -/
def State.osw (s : State) : Osw :=
  packOsw s.pins.rst (s.st == .checking) s.pins.inValid s.pins.inEos s.pins.inData

/-- `in_ready = (st == Filling)`, a function of state alone (R72). -/
def State.inReady (s : State) : Bool :=
  s.st == .filling

/-- The beat transferred at the next edge: `rst == 0`, `in_valid == 1` and `in_ready == 1` (R71). -/
def State.transferred (s : State) : Option Event :=
  if s.pins.rst then none else if s.inReady then s.pins.beat else none

/-- The edge uses the item up. Pins last one edge. "In Checking the event is not consumed unless it is Reset" (R137). -/
def State.takes (s : State) : Stim → Bool
  | .cycle _ => true
  | .event e => e == .reset || s.st == .filling

/-- The environment after the next edge. -/
def State.takeInput (s : State) : State :=
  match s.inputs with
  | [] => s
  | x :: rest => if s.takes x then { s with inputs := rest } else s

/-- The pins of an operation-select word. -/
def Pins.ofOsw (w : Osw) : Pins :=
  ⟨oswRst w, oswInValid w, oswInEos w, oswInData w⟩

/-- The state in which the next edge samples exactly the word `w`: its pins come first, and `st` is its bit 10. A
window that does not fit that `st` is brought to a length that does, so that the state stays a legal one (R23): filled
with `0x00` codewords up to 30 bytes for Checking, cut to its newest 29 for Filling (log entry 12). -/
def State.placeOsw (s : State) (w : Osw) : State :=
  if oswSt w then
    { s with
      inputs := .cycle (Pins.ofOsw w) :: s.inputs
      st := .checking
      window := (s.window ++ List.replicate 30 0#8).take 30 }
  else
    { s with
      inputs := .cycle (Pins.ofOsw w) :: s.inputs
      st := .filling
      window := s.window.drop (s.window.length - 29) }

/-- `placeOsw` for a word of the table; a width that is no operation-select word's leaves the state as it is
(log entry 12). -/
def State.placeTableWord (s : State) (nbits w : Nat) : State :=
  match decodeTableWord nbits w with
  | some _ => s.placeOsw (BitVec.ofNat 12 w)
  | none => s

end Sys2Proof.Machine
end

