-- ==== Sys2Proof/Machine/Step.lean ====
section
/-! DEFINITION. One step is one operation, that is one rising edge of the clock (spec/43_stream_synchronizer.md R150,
with `T_CHECK = 1`, log entry 10). -/

namespace Sys2Proof.Machine

/-- Sample the pins, use up what the edge takes of the environment, and perform the one operation that the
operation-select word selects (R78, R150). -/
def step (s : State) : Host.Outcome State Fault Refusal :=
  exec (decodeOsw s.osw) s.takeInput

/-- The state in which the next step performs the operation of the table word `w` (log entry 12). -/
def State.withFetchWord (s : State) (nbits w : Nat) : State :=
  s.placeTableWord nbits w

end Sys2Proof.Machine
end

