-- ==== Sys2Proof/Machine/Ports.lean ====
section
/-! DEFINITION. The output ports in the cycle that ends at the next edge (spec/43_stream_synchronizer.md R151;
spec/30_encoding.md R70 to R76). They are functions of the state and of `rst`, not registered (spec/10_state.md R30). -/

namespace Sys2Proof.Machine

/-- The outputs of R70. `evVerdict` and `outData` are absent in the cycles in which they are unspecified (R75, log
entry 14, safe). -/
structure Ports where
  inReady : Bool
  winLen : BitVec 5
  evValid : Bool
  evVerdict : Option (BitVec 2)
  outValid : Bool
  outData : Option Bus
  deriving DecidableEq, Repr

/-- The frame of the attempt that this cycle makes, if it makes one (R74). -/
def State.attemptFrame (s : State) : Option Frame :=
  if s.pins.rst then none
  else
    match s.st with
    | .filling => none
    | .checking => (fullWindow s.window).map asm

/-- The output equations of R151. -/
def State.ports (s : State) : Ports where
  inReady := s.inReady
  winLen := s.len
  evValid := !s.pins.rst && s.st == .checking
  evVerdict := s.attemptFrame.map fun f => (val f).code
  outValid := s.attemptFrame.any fun f => val f == .good
  outData := s.attemptFrame.bind fun f => if val f = .good then some (payloadBus (payloadOf f)) else none

end Sys2Proof.Machine
end

