-- ==== Sys2Proof/Machine/Stimulus.lean ====
section
/-! DEFINITION. The transmit side and the stimulus scripts, which are not part of CORE (spec/00_scope.md R4) and are used
by statements and tests only: valid codewords (spec/40_nibble_decoder.md R98), the script notation and its pseudo-items
(spec/30_encoding.md R83, R84). -/

namespace Sys2Proof.Machine

/-- The canonical codeword of a nibble: the parity equations of R98, with bit 0 = 0. -/
def cw (n : Nibble) : Byte :=
  let d3 := n.getLsbD 3
  let d2 := n.getLsbD 2
  let d1 := n.getLsbD 1
  let d0 := n.getLsbD 0
  BitVec.ofBool d3 ++ BitVec.ofBool d2 ++ BitVec.ofBool d1 ++ BitVec.ofBool (d1 ^^ d2 ^^ d3) ++
    BitVec.ofBool d0 ++ BitVec.ofBool (d0 ^^ d2 ^^ d3) ++ BitVec.ofBool (d0 ^^ d1 ^^ d3) ++ 0#1

/-- "A byte `c` is a valid codeword when `SYND(c) == 0`" (R98). -/
abbrev ValidCodeword (c : Byte) : Prop := synd c = 0#3

/-- The number of 1 bits of an error pattern among positions 1 to 7 (R100). -/
def checkedFlips (e : Byte) : Nat :=
  (Config.checkedPositions.filter fun p => e.getLsbD p).length

/-- The valid frame of a payload: sync, payload, checksum (R65). -/
def frameOf (p : Payload) : Frame :=
  Vector.ofFn fun j : Fin 15 =>
    if h : 2 ≤ j.val ∧ j.val < 14 then p[j.val - 2] else if j.val = 14 then xorAll p.toList else Config.sync

/-- The canonical codewords of a frame, the high nibble of each byte first (R66, R84). -/
def codewordsOf (f : Frame) : Codewords :=
  Vector.ofFn fun i : Fin 30 =>
    cw (if i.val % 2 = 0 then f[i.val / 2].extractLsb' 4 4 else f[i.val / 2].extractLsb' 0 4)

/-- A script item (R83) or pseudo-item (R84). -/
inductive Item where
  | rst
  | b (x : Byte)
  | eos
  | nop
  | enc (n : Nibble)
  | encb (x : Byte)
  | frame (p : Payload)
  | garb (n : Nat) (x : Byte)
  deriving DecidableEq, Repr

/-- The events an item stands for (R83, R84). -/
def Item.events : Item → List Event
  | .rst => [.reset]
  | .b x => [.byte x]
  | .eos => [.endOfStream]
  | .nop => [.nothing]
  | .enc n => [.byte (cw n)]
  | .encb x => [.byte (cw (x.extractLsb' 4 4)), .byte (cw (x.extractLsb' 0 4))]
  | .frame p => (codewordsOf (frameOf p)).toList.map .byte
  | .garb n x => List.replicate n (.byte x)

/-- How one event of a script is presented: held until it is taken (R83). The CHECK that a byte filling the window
implies comes "before the next item", while a reset alone would be taken in Checking and suppress it (R137, R201); so a
reset is presented after an event that does wait for the CHECK, and that is an IDLE in Filling (log entry 18). -/
def Event.scriptStims : Event → List Stim
  | .byte b => [.event (.byte b)]
  | .endOfStream => [.event .endOfStream]
  | .nothing => [.event .nothing]
  | .reset => [.event .nothing, .event .reset]

/-- A script as what the environment presents (R83). -/
def scriptInputs (items : List Item) : List Stim :=
  (items.flatMap Item.events).flatMap Event.scriptStims

end Sys2Proof.Machine
end

