-- ==== Sys2Proof/Machine/Stream.lean ====
section
/-! DEFINITION. The spec's other descriptions of the same machine, for statements to compare the step with: the
transition table of spec/43_stream_synchronizer.md R136 as the function of R137, the fused step of R145, the untimed run
of a script (spec/30_encoding.md R83), and the run of a whole stream of R153. None of them is used by `step`. -/

namespace Sys2Proof.Machine

/-- The state of R136: `(st, W)`. -/
abbrev Conf := SyncState × List Byte

/-- The table of R136, row by row, as the function of R137. There is no row, and so no answer, for a state that breaks
the invariant of R23. -/
def transition (c : Conf) (e : Event) : Option (Conf × Output) :=
  match c.1, e with
  | _, .reset => some ((.filling, []), .silent)
  | .filling, .byte b =>
    if c.2.length ≤ 28 then some ((.filling, c.2 ++ [b]), .silent)
    else if c.2.length = 29 then some ((.checking, c.2 ++ [b]), .silent)
    else none
  | .filling, .endOfStream => some ((.filling, []), .silent)
  | .filling, .nothing => some (c, .silent)
  | .checking, _ =>
    match fullWindow c.2 with
    | none => none
    | some w =>
      match val (asm w) with
      | .good => some ((.filling, []), ⟨some .good, some (payloadOf (asm w))⟩)
      | .wrongChecksum => some ((.filling, c.2.tail), ⟨some .wrongChecksum, none⟩)
      | .noSync => some ((.filling, c.2.tail), ⟨some .noSync, none⟩)

/-- `PUSHCHECK(b)` of R145: PUSH and, if that made the window full, CHECK, on a window of at most 29 bytes. -/
def pushCheck (w : List Byte) (b : Byte) : List Byte × Output :=
  match fullWindow (w ++ [b]) with
  | none => (w ++ [b], .silent)
  | some c =>
    if val (asm c) = .good then ([], ⟨some .good, some (payloadOf (asm c))⟩)
    else ((w ++ [b]).tail, ⟨some (val (asm c)), none⟩)

/-- The untimed machine on one event, with PUSH and CHECK fused (R78, R145): the window after it, of at most 29 bytes,
and the output. -/
def untimedStep (w : List Byte) : Event → List Byte × Output
  | .byte b => pushCheck w b
  | .endOfStream => ([], .silent)
  | .nothing => (w, .silent)
  | .reset => ([], .silent)

/-- The untimed machine on a sequence of events: the window after the last, and the outputs in order (R83). -/
def untimedRun (w : List Byte) : List Event → List Byte × List Output
  | [] => (w, [])
  | e :: later =>
    let first := untimedStep w e
    let rest := untimedRun first.1 later
    (rest.1, first.2 :: rest.2)

/-- One attempt of a run: the offset in the stream of its window's first byte, its verdict and, if Good, its
payload (R153). -/
structure Attempt where
  offset : Nat
  verdict : Verdict
  payload : Option Payload
  deriving DecidableEq, Repr

/-- The loop of `RUN(S)` from the offset `o` (R153), with the offset at which it ends. `fuel` bounds the
iterations; each moves `o` on, so the length of the stream is enough. -/
def runFrom (stream : List Byte) : Nat → Nat → List Attempt × Nat
  | 0, o => ([], o)
  | fuel + 1, o =>
    match fullWindow ((stream.drop o).take 30) with
    | none => ([], o)
    | some w =>
      if val (asm w) = .good then
        let rest := runFrom stream fuel (o + 30)
        (⟨o, .good, some (payloadOf (asm w))⟩ :: rest.1, rest.2)
      else
        let rest := runFrom stream fuel (o + 1)
        (⟨o, val (asm w), none⟩ :: rest.1, rest.2)

/-- The attempts of `RUN(S)`, in order (R153). -/
def attempts (stream : List Byte) : List Attempt :=
  (runFrom stream stream.length 0).1

/-- The offset of the first byte that `RUN(S)` discards at end-of-stream (R153, R154). -/
def endOffset (stream : List Byte) : Nat :=
  (runFrom stream stream.length 0).2

end Sys2Proof.Machine
end

