-- ==== Sys2Proof/Safety.lean ====
section
/-! DEFINITION. What a legal state is, in the terms the statements use. -/

namespace Sys2Proof.Machine

/-- The reachable states of CORE: at most 30 bytes, and "`st == Checking` exactly when `len == 30`"
(spec/10_state.md R23, R32). -/
abbrev State.Inv (s : State) : Prop :=
  s.window.length ≤ 30 ∧ (s.st = .checking ↔ s.window.length = 30)

/-- "A payload is present exactly when the verdict is present and is `Good`" (R137), and the sink has received one
payload for each Good event of the observer (R51). -/
abbrev State.EventsAgree (s : State) : Prop :=
  (s.out.payload.isSome = true ↔ s.out.verdict = some .good) ∧ s.observer.count .good = s.sink.length

end Sys2Proof.Machine
end

