-- ==== Sys2Proof/Certificates/Slice0/Obligations.lean ====
section
/-! DEFINITION. What is to be proved of the model, rule by rule. Where a statement speaks of a field that is the model's
own (`inputs`, `out`, `observer`, `sink`, `probe`: log entries 2 to 6), its docstring or title says so. A next state
written as `s` with fields replaced is the frame at once: every field not named is unchanged. CORE has no memory, so
there is no byte of memory to frame (R40). -/

open Sys2Proof Sys2Proof.Machine

/-! ### The nibble decoder -/

/-- R93: the syndrome bits are three parity trees. `probe` is where the model shows a function's result (log entry 5). -/
def Obligations.SyndIsThreeParityTrees : Prop :=
  ∀ (c : Byte) (s : State), exec (.synd c) s = .next { s with probe := some (.syndrome
    (BitVec.ofBool (c.getLsbD 4 ^^ c.getLsbD 5 ^^ c.getLsbD 6 ^^ c.getLsbD 7) ++
     BitVec.ofBool (c.getLsbD 2 ^^ c.getLsbD 3 ^^ c.getLsbD 6 ^^ c.getLsbD 7) ++
     BitVec.ofBool (c.getLsbD 1 ^^ c.getLsbD 3 ^^ c.getLsbD 5 ^^ c.getLsbD 7))) }

/-- R94, with its corner cases: exactly the bit at the syndrome changes, never bit 0, and the result is valid. -/
def Obligations.CorrFlipsExactlyTheBitAtTheSyndrome : Prop :=
  ∀ (c : Byte) (s : State),
    exec (.corr c) s = .next { s with probe := some (.codeword
      (if synd c = 0#3 then c else c ^^^ (1#8 <<< (synd c).toNat))) } ∧
    (∀ k : Fin 8, (corr c).getLsbD k ≠ c.getLsbD k ↔ (synd c ≠ 0#3 ∧ k.val = (synd c).toNat)) ∧
    (corr c).getLsbD 0 = c.getLsbD 0 ∧ synd (corr c) = 0#3 ∧ corr (corr c) = corr c

/-- R95: the four data bits, and no other bit. -/
def Obligations.ExtrTakesTheFourDataBits : Prop :=
  ∀ (c : Byte) (s : State), ∃ n : Nibble, exec (.extr c) s = .next { s with probe := some (.nibble n) } ∧
    n.getLsbD 3 = c.getLsbD 7 ∧ n.getLsbD 2 = c.getLsbD 6 ∧ n.getLsbD 1 = c.getLsbD 5 ∧
    n.getLsbD 0 = c.getLsbD 3

/-- R96 and R103: DECN is EXTR of CORR, and has the closed form of R103. -/
def Obligations.DecnHasTheClosedForm : Prop :=
  ∀ (c : Byte) (s : State), ∃ n : Nibble, exec (.decn c) s = .next { s with probe := some (.nibble n) } ∧
    n = extr (corr c) ∧
    n.getLsbD 3 = (c.getLsbD 7 ^^ (synd c == 7#3)) ∧ n.getLsbD 2 = (c.getLsbD 6 ^^ (synd c == 6#3)) ∧
    n.getLsbD 1 = (c.getLsbD 5 ^^ (synd c == 5#3)) ∧ n.getLsbD 0 = (c.getLsbD 3 ^^ (synd c == 3#3))

/-- R99: bit 0 is ignored. -/
def Obligations.BitZeroIsAPassThroughSlot : Prop :=
  ∀ c : Byte, synd (c ^^^ 0x01#8) = synd c ∧ corr (c ^^^ 0x01#8) = corr c ^^^ 0x01#8 ∧
    decn (c ^^^ 0x01#8) = decn c

/-- R98: the parity equations, the two valid codewords of each nibble, 32 in all and each decoded with no correction,
and the table of canonical ones. -/
def Obligations.ValidCodewordsAreThoseOfTheParityEquations : Prop :=
  (∀ c : Byte, ValidCodeword c ↔
    (c.getLsbD 1 = (c.getLsbD 3 ^^ c.getLsbD 5 ^^ c.getLsbD 7) ∧
     c.getLsbD 2 = (c.getLsbD 3 ^^ c.getLsbD 6 ^^ c.getLsbD 7) ∧
     c.getLsbD 4 = (c.getLsbD 5 ^^ c.getLsbD 6 ^^ c.getLsbD 7))) ∧
  (∀ (n : Nibble) (c : Byte), (ValidCodeword c ∧ extr c = n) ↔ (c = cw n ∨ c = cw n ^^^ 0x01#8)) ∧
  (∀ n : Nibble, decn (cw n) = n ∧ decn (cw n ^^^ 0x01#8) = n ∧ (cw n).getLsbD 0 = false) ∧
  (∀ c : Byte, ValidCodeword c → corr c = c ∧ decn c = extr c) ∧
  ((List.range 256).filter fun k => synd (BitVec.ofNat 8 k) == 0#3).length = 32 ∧
  (List.range 16).map (fun n => cw (BitVec.ofNat 4 n)) =
    [0x00#8, 0x0E#8, 0x32#8, 0x3C#8, 0x54#8, 0x5A#8, 0x66#8, 0x68#8] ++
    [0x96#8, 0x98#8, 0xA4#8, 0xAA#8, 0xC2#8, 0xCC#8, 0xF0#8, 0xFE#8]

/-- R100: the decode is right if and only if at most one of the positions 1 to 7 is flipped. -/
def Obligations.DecodeIsRightExactlyUpToOneCheckedFlip : Prop :=
  ∀ (n : Nibble) (v e : Byte), ValidCodeword v → extr v = n → (decn (v ^^^ e) = n ↔ checkedFlips e ≤ 1)

/-- From R101: two or more checked flips land on a valid codeword of another nibble, and every byte is within one
checked flip of exactly one valid pattern of positions 1 to 7. -/
def Obligations.EveryByteIsNearExactlyOneCodeword : Prop :=
  (∀ v e : Byte, ValidCodeword v → 2 ≤ checkedFlips e →
    ValidCodeword (corr (v ^^^ e)) ∧ extr (corr (v ^^^ e)) ≠ extr v ∧ decn (v ^^^ e) ≠ extr v) ∧
  (∀ c : Byte, ∃ n : Nibble, checkedFlips (c ^^^ cw n) ≤ 1 ∧ ∀ m : Nibble, checkedFlips (c ^^^ cw m) ≤ 1 → m = n)

/-! ### The frame assembler and the frame validator -/

/-- R110: frame byte `j` is the nibbles of codewords `2j` (high) and `2j + 1` (low). -/
def Obligations.AsmPacksEachNibblePair : Prop :=
  ∀ (w : Codewords) (s : State), ∃ f : Frame, exec (.asm w) s = .next { s with probe := some (.frame f) } ∧
    ∀ j : Fin 15, f[j.val] = (((decn w[2 * j.val]).setWidth 8) <<< 4) ||| ((decn w[2 * j.val + 1]).setWidth 8)

/-- R113: changing one codeword changes at most its own half of its own frame byte. -/
def Obligations.AsmLanesAreIndependent : Prop :=
  ∀ (w : Codewords) (i : Fin 30) (b : Byte),
    (∀ j : Fin 15, j.val ≠ i.val / 2 → (asm (w.set i.val b))[j.val] = (asm w)[j.val]) ∧
    (i.val % 2 = 0 →
      (asm (w.set i.val b))[i.val / 2].extractLsb' 0 4 = (asm w)[i.val / 2].extractLsb' 0 4) ∧
    (i.val % 2 = 1 →
      (asm (w.set i.val b))[i.val / 2].extractLsb' 4 4 = (asm w)[i.val / 2].extractLsb' 4 4)

/-- R115: two windows, each within one checked flip per codeword of the same valid codewords, give one frame; two
checked flips in one codeword change its nibble. -/
def Obligations.AsmMasksOneFlipPerCodeword : Prop :=
  (∀ v w w' : Codewords,
    (∀ i : Fin 30, ValidCodeword v[i.val] ∧ checkedFlips (w[i.val] ^^^ v[i.val]) ≤ 1 ∧
      checkedFlips (w'[i.val] ^^^ v[i.val]) ≤ 1) →
    asm w = asm w') ∧
  (∀ v c : Byte, ValidCodeword v → 2 ≤ checkedFlips (c ^^^ v) → decn c ≠ decn v)

/-- R120: the sync test first, the checksum of the 12 payload bytes second. -/
def Obligations.ValTestsSyncThenChecksum : Prop :=
  ∀ (f : Frame) (s : State), exec (.val f) s = .next { s with probe := some (.verdict
    (if f[0] ≠ f[1] ∨ f[0] ≠ 0xAA#8 then .noSync
     else if f[2] ^^^ f[3] ^^^ f[4] ^^^ f[5] ^^^ f[6] ^^^ f[7] ^^^ f[8] ^^^ f[9] ^^^ f[10] ^^^ f[11] ^^^ f[12] ^^^ f[13]
         ≠ f[14] then .wrongChecksum
     else .good)) }

/-- R122: the sync test in its equivalent forms. -/
def Obligations.SyncTestHasThreeForms : Prop :=
  (∀ f : Frame, (val f = .noSync ↔ (f[0] ≠ 0xAA#8 ∨ f[1] ≠ 0xAA#8)) ∧
    (val f = .noSync ↔ f[0] ++ f[1] ≠ 0xAAAA#16)) ∧
  (∀ w : Codewords, val (asm w) = .noSync ↔
    ¬ (decn w[0] = 0xA#4 ∧ decn w[1] = 0xA#4 ∧ decn w[2] = 0xA#4 ∧ decn w[3] = 0xA#4))

/-- R123: the checksum bit by bit, and the equivalent test over the 13 bytes from index 2 to 14. -/
def Obligations.ChecksumIsTheColumnParity : Prop :=
  ∀ f : Frame,
    (∀ b : Fin 8, (checksum f).getLsbD b =
      ((List.range 12).foldl (fun acc k => acc ^^ (f.toList.getD (2 + k) 0#8).getLsbD b) false)) ∧
    (checksum f = f[14] ↔ xorAll (f.toList.drop 2) = 0#8)

/-- R126: the three properties of the validator. -/
def Obligations.ValidatorProperties : Prop :=
  (∀ p : Payload, val (frameOf p) = .good ∧ payloadOf (frameOf p) = p) ∧
  (∀ f : Frame, f[0] ≠ f[1] ∨ f[0] ≠ 0xAA#8 ∨ f[1] ≠ 0xAA#8 → val f = .noSync) ∧
  (∀ f : Frame, f[0] = 0xAA#8 → f[1] = 0xAA#8 → f[14] ≠ xorAll (payloadOf f).toList → val f = .wrongChecksum)

/-- R125: how many of the `2^120` frames have each verdict. -/
def Obligations.VerdictCountsOverAllFrames : Prop :=
  Nat.card { f : Frame // val f = .good } = 2 ^ 96 ∧
  Nat.card { f : Frame // val f = .wrongChecksum } = 2 ^ 104 - 2 ^ 96 ∧
  Nat.card { f : Frame // val f = .noSync } = 2 ^ 120 - 2 ^ 104

/-! ### Encodings -/

/-- R79: every word matches exactly one row of the map, it is the row of the operation the word decodes to, and that
operation is the one of R79's cascade. -/
def Obligations.OperationMapIsTotalAndUnambiguous : Prop :=
  ∀ w : Osw, (∃ r ∈ opRows, r.matchesWord w = true ∧ (decodeOsw w).opName = some r.name ∧
      ∀ r' ∈ opRows, r'.matchesWord w = true → r' = r) ∧
    decodeOsw w = if w.getLsbD 11 then .reset else if w.getLsbD 10 then .check
      else if w.getLsbD 9 = false then .idle else if w.getLsbD 8 then .eos else .push (w.setWidth 8)

/-- Decoding an encoded row gives it back, for every row and every operand; exactly the operations have a word.
The 0 of the ignored bits in `encode` is the model's choice (log entry 3). -/
def Obligations.DecodeOfEncodeIsTheRow : Prop :=
  (∀ i : Instr, decode (encode i) = .ok i) ∧ (∀ i : Instr, i.wellFormed = true ↔ ∃ w : Osw, encode i = .word w)

/-- Encoding a decoded word gives back every bit that its row reads: the mask, and for PUSH the data byte. -/
def Obligations.EncodeOfDecodeKeepsEveryReadBit : Prop :=
  ∀ w : Osw, encode (decodeOsw w) = .word (w &&& (match decodeOsw w with
    | .reset => 0x800#12
    | .check => 0xC00#12
    | .push _ => 0xFFF#12
    | .eos => 0xF00#12
    | _ => 0xE00#12))

/-- The words 0A4, 1FF, 2A4, 3A4, 6A4, AA4 and C00 of spec/95_test_vectors.md section 5.1, bit 11 first, as the table
numbers them. The 16 bits, and that a word of another width is none, are the model's layout (log entry 1). -/
def Obligations.TableWordsDecodeToTheirOperations : Prop :=
  decodeTableWord 16 0b000010100100 = some .idle ∧ decodeTableWord 16 0b000111111111 = some .idle ∧
  decodeTableWord 16 0b001010100100 = some (.push 0b10100100#8) ∧
  decodeTableWord 16 0b001110100100 = some .eos ∧ decodeTableWord 16 0b011010100100 = some .check ∧
  decodeTableWord 16 0b101010100100 = some .reset ∧ decodeTableWord 16 0b110000000000 = some .reset ∧
  decodeTableWord 16 0b1000000000000 = none ∧ decodeTableWord 8 0b10100100 = none

/-- A function operand of a wrong length is rejected by name, and none is invented for it: a codeword is one byte
(R61), an operand of ASM 30 (R111), one of VAL 15 (R121). That it is rejected when it is decoded is the model's choice
(log entry 19). -/
def Obligations.WrongOperandLengthIsRejected : Prop :=
  ∀ bytes : List Byte,
    (bytes.length ≠ 30 → decode (.operand .asm bytes) = .error .assemblerInputNot30Bytes) ∧
    (bytes.length ≠ 15 → decode (.operand .val bytes) = .error .validatorInputNot15Bytes) ∧
    (bytes.length ≠ 1 → decode (.operand .synd bytes) = .error .codewordNotOneByte ∧
      decode (.operand .corr bytes) = .error .codewordNotOneByte ∧
      decode (.operand .extr bytes) = .error .codewordNotOneByte ∧
      decode (.operand .decn bytes) = .error .codewordNotOneByte)

/-! ### The operations -/

/-- R200: RESET, from every state at all, the unreachable ones too, and at every edge with `rst == 1`. -/
def Obligations.ResetEmptiesTheWindow : Prop :=
  ∀ s : State, exec .reset s = .next { s with window := [], st := .filling, out := ⟨none, none⟩ } ∧
    (s.pins.rst = true → s.transferred = none ∧
      step s = .next { s.takeInput with window := [], st := .filling, out := ⟨none, none⟩ })

/-- R138 and R139: PUSH stores the byte as it is, and the 30th makes the state Checking. It is enabled "only when
`st == Filling` (so `len <= 29`)"; what it does elsewhere is in `PushOnAnUnreachableWindowAppends` and
`OperationsStopWhereNotEnabled`. -/
def Obligations.PushAppendsTheByte : Prop :=
  ∀ (b : Byte) (s : State), s.st = .filling → s.window.length ≤ 29 → exec (.push b) s = .next { s with
    window := s.window ++ [b]
    st := if s.window.length + 1 = 30 then .checking else .filling
    out := ⟨none, none⟩ }

/-- R140 and R141: CHECK with verdict Good emits `F[2..14)` once and clears. -/
def Obligations.GoodCheckEmitsAndClears : Prop :=
  ∀ (s : State) (w : Codewords), s.st = .checking → s.window = w.toList → val (asm w) = .good →
    ∃ p : Payload, (∀ k : Fin 12, p[k.val] = (asm w)[2 + k.val]) ∧
      exec .check s = .next { s with
        window := [], st := .filling, out := ⟨some .good, some p⟩
        observer := s.observer ++ [.good], sink := s.sink ++ [p] }

/-- R143 and R144: CHECK with either failing verdict slides by one byte and emits no payload; the two differ in
the verdict event alone. -/
def Obligations.FailingCheckSlidesByOne : Prop :=
  ∀ (s : State) (w : Codewords), s.st = .checking → s.window = w.toList → val (asm w) ≠ .good →
    ∃ slid : List Byte, slid.length = 29 ∧ (∀ i : Fin 29, slid[i.val]? = some w[i.val + 1]) ∧
      exec .check s = .next { s with
        window := slid, st := .filling, out := ⟨some (val (asm w)), none⟩
        observer := s.observer ++ [val (asm w)] }

/-- R140: a CHECK completes on every full window, with exactly one verdict event, a payload exactly when the
verdict is Good, and Filling after it. -/
def Obligations.CheckMakesOneVerdictOnEveryFullWindow : Prop :=
  ∀ s : State, s.st = .checking → s.window.length = 30 →
    ∃ (w : Codewords) (t : State), s.window = w.toList ∧ exec .check s = .next t ∧ t.st = .filling ∧
      t.out.verdict = some (val (asm w)) ∧ t.observer = s.observer ++ [val (asm w)] ∧
      t.out.payload = (if val (asm w) = .good then some (payloadOf (asm w)) else none) ∧
      t.sink = s.sink ++ t.out.payload.toList ∧
      t.window = (if val (asm w) = .good then [] else s.window.tail) ∧
      t.inputs = s.inputs ∧ t.probe = s.probe

/-- R146 and R205: EOS discards the partial window without emission and leaves CORE's reset state. -/
def Obligations.EosDiscardsThePartialWindow : Prop :=
  ∀ s : State, s.st = .filling → exec .eos s = .next { s with
    window := State.reset.window, st := State.reset.st, out := ⟨none, none⟩ } ∧
    State.reset.window = [] ∧ State.reset.st = .filling

/-- R148: IDLE changes nothing and presents nothing, and any number of them changes no more. -/
def Obligations.IdleChangesNothing : Prop :=
  ∀ s : State, s.st = .filling → exec .idle s = .next { s with out := ⟨none, none⟩ } ∧
    ∀ (n : Nat) (rest : List Stim),
      Sys2Proof.core.run (n + 1) { s with inputs := List.replicate (n + 1) (.event .nothing) ++ rest } =
        .next { s with inputs := rest, out := ⟨none, none⟩ }

/-- Where an operation's "requires" line is not met, exec stops by name: the model's choice for terms no word selects
(log entries 7 and 8). -/
def Obligations.OperationsStopWhereNotEnabled : Prop :=
  ∀ (s : State) (b : Byte),
    (s.st = .checking → exec (.push b) s = .refused .notEnabled ∧ exec .eos s = .refused .notEnabled ∧
      exec .idle s = .refused .notEnabled) ∧
    (s.st = .filling → exec .check s = .refused .notEnabled) ∧
    (s.st = .checking → s.window.length ≠ 30 → exec .check s = .fault .assemblerContract)

/-- R80, with R90, R97 for the codeword functions, R114 for ASM, R120 and R125 for VAL: a function row always completes, reads no state and writes none of CORE's. `probe` is the
model's own field (log entry 5). -/
def Obligations.FunctionRowsReadAndWriteNoState : Prop :=
  ∀ i : Instr, i.wellFormed = false → ∃ v : FnValue, ∀ s : State, exec i s = .next { s with probe := some v }

/-- R80: what CHECK presents is what the rows DECN, ASM and VAL compute of the window. -/
def Obligations.CheckUsesTheDatapathFunctions : Prop :=
  ∀ (s : State) (w : Codewords), s.st = .checking → s.window = w.toList →
    ∃ (f : Frame) (v : Verdict) (t : State),
      exec (.asm w) s = .next { s with probe := some (.frame f) } ∧
      exec (.val f) s = .next { s with probe := some (.verdict v) } ∧
      (∀ j : Fin 15, exec (.decn w[2 * j.val]) s = .next { s with probe := some (.nibble (f[j.val].extractLsb' 4 4)) } ∧
        exec (.decn w[2 * j.val + 1]) s = .next { s with probe := some (.nibble (f[j.val].extractLsb' 0 4)) }) ∧
      exec .check s = .next t ∧ t.out.verdict = some v

/-! ### The step -/

/-- R150: the operation performed at an edge, with what the edge adds around it: it uses up its item of the
environment and changes nothing else (log entries 2 and 3). -/
def Obligations.StepPerformsTheSelectedOperation : Prop :=
  ∀ s : State,
    (s.pins.rst = true → step s = exec .reset s.takeInput) ∧
    (s.pins.rst = false → s.st = .checking → step s = exec .check s.takeInput) ∧
    (s.pins.rst = false → s.st = .filling → s.pins.inValid = true → s.pins.inEos = false →
      step s = exec (.push s.pins.inData) s.takeInput) ∧
    (s.pins.rst = false → s.st = .filling → s.pins.inValid = true → s.pins.inEos = true →
      step s = exec .eos s.takeInput) ∧
    (s.pins.rst = false → s.st = .filling → s.pins.inValid = false → step s = exec .idle s.takeInput) ∧
    step s = exec (decodeOsw s.osw) s.takeInput ∧ s.takeInput = { s with inputs := s.takeInput.inputs } ∧
    (s.transferred.isSome = true ↔ s.pins.rst = false ∧ s.st = .filling ∧ s.pins.inValid = true)

/-- Which item an edge uses up: pins always; an event in Filling; in Checking a reset only (R137). An environment with
nothing left offers nothing (the model's choice, log entry 2). -/
def Obligations.EdgeUsesUpItsItem : Prop :=
  ∀ (s : State) (p : Pins) (e : Event) (rest : List Stim),
    (s.inputs = .cycle p :: rest → s.pins = p ∧ s.takeInput.inputs = rest) ∧
    (s.inputs = .event e :: rest → s.pins = e.pins ∧
      s.takeInput.inputs = if s.st = .checking ∧ e ≠ .reset then s.inputs else rest) ∧
    (s.inputs = [] → s.pins = ⟨false, false, false, 0#8⟩ ∧ s.takeInput.inputs = [])

/-- R136 and R137: on every reachable state and every event, the step is the transition table's row, and the event is
consumed unless the state is Checking and the event is no reset. -/
def Obligations.StepFollowsTheTransitionTable : Prop :=
  ∀ (s : State) (e : Event) (rest : List Stim), s.Inv → s.inputs = .event e :: rest →
    ∃ t : State, step s = .next t ∧ transition (s.st, s.window) e = some ((t.st, t.window), t.out) ∧
      (t.out.payload.isSome = true ↔ t.out.verdict = some .good) ∧
      t.inputs = if s.st = .checking ∧ e ≠ .reset then s.inputs else rest

/-- The word that `withFetchWord` places is the one the very next step performs, on a legal state (the model's own
notion, log entry 12). -/
def Obligations.PlacedWordIsTheNextOperation : Prop :=
  ∀ (s : State) (w : Osw), s.Inv →
    (s.withFetchWord 16 w.toNat).osw = w ∧ (s.withFetchWord 16 w.toNat).Inv ∧
    step (s.withFetchWord 16 w.toNat) =
      exec (decodeOsw w) { s.withFetchWord 16 w.toNat with inputs := s.inputs } ∧
    ((s.st = .checking ↔ oswSt w = true) →
      s.withFetchWord 16 w.toNat = { s with inputs := .cycle (Pins.ofOsw w) :: s.inputs })

/-- R81: the ignored input bits have no effect on anything: all of them under reset, the beat in Checking,
`in_eos` and `in_data` when nothing is offered, `in_data` at end-of-stream. -/
def Obligations.IgnoredInputBitsHaveNoEffect : Prop :=
  ∀ (s : State) (p q : Pins) (rest : List Stim), p.rst = q.rst →
    (p.rst = true ∨ s.st = .checking ∨ (p.inValid = false ∧ q.inValid = false) ∨
      (p.inValid = true ∧ q.inValid = true ∧ p.inEos = true ∧ q.inEos = true)) →
    step { s with inputs := .cycle p :: rest } = step { s with inputs := .cycle q :: rest }

/-- R151: the ports of a cycle are those of the equations, they carry what the step's operation outputs, and of the
inputs they depend on `rst` alone, `in_ready` and `win_len` on none. The absent values are the spec's unspecified ones
(R75, log entry 14). -/
def Obligations.PortsCarryTheOutputOfTheStep : Prop :=
  (∀ (s : State) (other : List Stim), ({ s with inputs := other }).ports.inReady = s.ports.inReady ∧
    ({ s with inputs := other }).ports.winLen = s.ports.winLen ∧
    (({ s with inputs := other }).pins.rst = s.pins.rst → ({ s with inputs := other }).ports = s.ports)) ∧
  ∀ s : State, s.Inv → ∃ t : State, step s = .next t ∧
    s.ports.inReady = (s.st == .filling) ∧ s.ports.winLen.toNat = s.window.length ∧
    (s.ports.evValid = true ↔ s.pins.rst = false ∧ s.st = .checking) ∧
    s.ports.evValid = t.out.verdict.isSome ∧ s.ports.evVerdict = t.out.verdict.map Verdict.code ∧
    s.ports.outValid = t.out.payload.isSome ∧ s.ports.outData = t.out.payload.map payloadBus ∧
    (s.ports.outValid = true ↔ s.ports.evValid = true ∧ s.ports.evVerdict = some 0b10#2) ∧
    (∀ w : Codewords, s.window = w.toList → s.ports.evValid = true →
      s.ports.evVerdict = some (val (asm w)).code ∧ (s.ports.outValid = true ↔ val (asm w) = .good) ∧
      (s.ports.outValid = true → s.ports.outData = some (payloadBus (payloadOf (asm w))))) ∧
    (s.ports.evValid = true → t.ports.evValid = false ∧ t.ports.outValid = false)

/-- R44: payload byte `k` is frame byte `2 + k`, in bits `8k+7:8k` of the bus. -/
def Obligations.PayloadByteOrderOnTheBus : Prop :=
  ∀ (f : Frame) (k : Fin 12), (payloadOf f)[k.val] = f[2 + k.val] ∧
    (payloadBus (payloadOf f)).extractLsb' (8 * k.val) 8 = f[2 + k.val]

/-- R201: in a cycle with `rst == 1` no verdict, no payload and no transfer, whatever the state. -/
def Obligations.ResetSuppressesTheCycle : Prop :=
  ∀ s : State, s.pins.rst = true →
    s.ports.evValid = false ∧ s.ports.outValid = false ∧ s.transferred = none ∧
    ∃ t : State, step s = .next t ∧ t.window = [] ∧ t.st = .filling ∧ t.out = ⟨none, none⟩ ∧
      t.observer = s.observer ∧ t.sink = s.sink ∧ t.probe = s.probe

/-- R202: the outputs in the first cycle after a RESET edge, and R31: the reset values. -/
def Obligations.OutputsAndValuesAfterReset : Prop :=
  (∀ s t : State, s.pins.rst = true → step s = .next t → t.pins.rst = false →
    t.ports.inReady = true ∧ t.ports.winLen = 0#5 ∧ t.ports.evValid = false ∧ t.ports.outValid = false) ∧
  State.reset.window = [] ∧ State.reset.len = 0#5 ∧ State.reset.st = .filling

/-- R71 and R150: a beat is transferred exactly at the edges that perform PUSH or EOS, and in Checking none is
(R48, R139). -/
def Obligations.BeatIsTransferredExactlyAtPushAndEos : Prop :=
  ∀ s : State,
    (∀ b : Byte, s.transferred = some (.byte b) ↔ decodeOsw s.osw = .push b) ∧
    (s.transferred = some .endOfStream ↔ decodeOsw s.osw = .eos) ∧
    (s.transferred = none ↔ (decodeOsw s.osw = .reset ∨ decodeOsw s.osw = .check ∨ decodeOsw s.osw = .idle)) ∧
    (s.st = .checking → s.transferred = none)

/-- R22 and R24: how each operation moves `len` and `st`, on every reachable state. -/
def Obligations.LengthAndStateFollowTheTable : Prop :=
  ∀ s : State, s.Inv → ∃ t : State, step s = .next t ∧
    (decodeOsw s.osw = .reset → t.st = .filling ∧ t.window.length = 0) ∧
    (∀ b : Byte, decodeOsw s.osw = .push b → s.st = .filling ∧ s.window.length ≤ 29 ∧
      t.window.length = s.window.length + 1 ∧
      t.st = if s.window.length + 1 = 30 then SyncState.checking else SyncState.filling) ∧
    (decodeOsw s.osw = .eos → s.st = .filling ∧ t.st = .filling ∧ t.window.length = 0) ∧
    (decodeOsw s.osw = .check → s.st = .checking ∧ s.window.length = 30 ∧ t.st = .filling ∧
      t.window.length = if t.out.verdict = some .good then 0 else 29) ∧
    (decodeOsw s.osw = .idle → s.st = .filling ∧ t.st = .filling ∧ t.window = s.window)

/-! ### The whole machine -/

/-- R23: the state invariant holds after reset and is kept by every row of the table and by every step. -/
def Obligations.EveryOperationKeepsTheStateInvariant : Prop :=
  State.reset.Inv ∧
  (∀ (i : Instr) (s t : State), s.Inv → exec i s = .next t → t.Inv) ∧
  (∀ s t : State, s.Inv → step s = .next t → t.Inv)

/-- R32: the reachable states are exactly those that meet the invariant. Whatever the environment, no run from the
reset state leaves them; and each is reached, by as many PUSHes as it has bytes. -/
def Obligations.ReachableStatesAreTheLegalOnes : Prop :=
  (∀ (k : Nat) (inputs : List Stim) (t : State),
    Sys2Proof.core.run k { State.reset with inputs := inputs } = .next t → t.Inv) ∧
  (∀ s : State, s.Inv → ∃ t : State,
    Sys2Proof.core.run s.window.length { State.reset with inputs := s.window.map fun b => .event (.byte b) } = .next t ∧
      t.window = s.window ∧ t.st = s.st ∧ t.inputs = [])

/-- The reset state meets both invariants. -/
def Obligations.ResetStateIsLegal : Prop :=
  State.reset.Inv ∧ State.reset.EventsAgree

/-- R51 and R137: a payload always comes with its Good event, in the same step, and the sink has one payload for each
Good event. `observer` and `sink` are the model's own fields (log entry 4). -/
def Obligations.PayloadsAndGoodEventsAgree : Prop :=
  ∀ s t : State, s.EventsAgree → step s = .next t → t.EventsAgree

/-- R170, R158, R178: no run from a reachable state ever stops, whatever the environment presents. -/
def Obligations.NoRunFromALegalStateStops : Prop :=
  ∀ (n : Nat) (s : State), s.Inv → ∃ t : State, Sys2Proof.core.run n s = .next t ∧ t.Inv

/-- R158: Checking is left by the next step; in Filling every offered beat is taken by the next step. -/
def Obligations.CheckingLastsOneStepAndFillingTakesEveryEvent : Prop :=
  ∀ s : State, s.Inv → ∃ t : State, step s = .next t ∧ (s.st = .checking → t.st = .filling) ∧
    (s.st = .filling → s.pins.rst = false → s.transferred = s.pins.beat) ∧
    ∀ (e : Event) (rest : List Stim), s.st = .filling → s.inputs = .event e :: rest → t.inputs = rest

/-- R157: no modes, no counters: what was emitted before, and any earlier result, changes nothing later. -/
def Obligations.HistoryHasNoInfluence : Prop :=
  ∀ s s' t : State, s.window = s'.window → s.st = s'.st → s.inputs = s'.inputs → step s = .next t →
    ∃ t' : State, step s' = .next t' ∧ t'.window = t.window ∧ t'.st = t.st ∧ t'.inputs = t.inputs ∧
      t'.out = t.out

/-- R50 and R49: events reach the observer and the sink in the order of the steps, each once, and nothing else does.
`observer`, `sink` and `probe` are the model's own fields (log entries 4 and 5). -/
def Obligations.EventsAreDeliveredOnceAndInOrder : Prop :=
  ∀ s t : State, step s = .next t →
    t.observer = s.observer ++ t.out.verdict.toList ∧ t.sink = s.sink ++ t.out.payload.toList ∧
    t.probe = s.probe ∧ (s.inputs = t.inputs ∨ s.inputs.tail = t.inputs)

/-! ### Whole streams -/

/-- R145: PUSH, and CHECK if the window became full, is the fused step, when no reset falls between them. -/
def Obligations.PushThenCheckIsTheFusedStep : Prop :=
  ∀ (s : State) (b : Byte) (later : List Event), s.st = .filling → s.window.length ≤ 29 → .reset ∉ later →
    s.inputs = (.byte b :: later).map .event →
    ∃ (k : Nat) (t : State), k ≤ 2 ∧ Sys2Proof.core.run k s = .next t ∧ t.st = .filling ∧
      (t.window, t.out) = pushCheck s.window b ∧ t.inputs = later.map .event ∧
      t.observer = s.observer ++ t.out.verdict.toList ∧ t.sink = s.sink ++ t.out.payload.toList

/-- R153: the run of a finite stream, from every state with an empty window and whatever the environment presents after
the stream, makes the attempts of `RUN(S)`, in order, and ends in the reset state of CORE. -/
def Obligations.StreamRunsAsTheLoop : Prop :=
  ∀ (s : State) (stream : List Byte) (after : List Stim), s.st = .filling → s.window = [] →
    s.inputs = stream.map (fun b => Stim.event (.byte b)) ++ .event .endOfStream :: after →
    ∃ (k : Nat) (t : State), Sys2Proof.core.run k s = .next t ∧
      t.observer = s.observer ++ (attempts stream).map (fun a => a.verdict) ∧
      t.sink = s.sink ++ (attempts stream).filterMap (fun a => a.payload) ∧
      t.window = [] ∧ t.st = .filling ∧ t.inputs = after ∧ t.probe = s.probe

/-- R154: every byte is consumed by a Good attempt, slid past by a failing one, or discarded at the end. -/
def Obligations.EveryByteOfAStreamIsAccountedFor : Prop :=
  ∀ stream : List Byte,
    (∃ r : Nat, r ≤ 29 ∧ endOffset stream + r = stream.length ∧
      stream.length = 30 * ((attempts stream).countP fun a => a.verdict == .good) +
        ((attempts stream).countP fun a => a.verdict != .good) + r) ∧
    (attempts stream).length = ((attempts stream).countP fun a => a.verdict == .good) +
      ((attempts stream).countP fun a => a.verdict != .good) ∧
    (stream.length < 30 → attempts stream = [])

/-- R155: which offsets are tried, in which order, and what each attempt there gives. -/
def Obligations.OffsetIsTriedUnlessAGoodAttemptSwallowsIt : Prop :=
  ∀ (stream : List Byte) (f : Nat),
    ((∃ a ∈ attempts stream, a.offset = f) ↔
      (f + 30 ≤ stream.length ∧
        ¬ ∃ a ∈ attempts stream, a.verdict = .good ∧ a.offset < f ∧ f < a.offset + 30)) ∧
    (∀ a : Attempt, (attempts stream)[0]? = some a → a.offset = 0) ∧
    (∀ (k : Nat) (a b : Attempt), (attempts stream)[k]? = some a → (attempts stream)[k + 1]? = some b →
      b.offset = a.offset + if a.verdict = .good then 30 else 1) ∧
    (∀ a ∈ attempts stream, ∃ w : Codewords, fullWindow ((stream.drop a.offset).take 30) = some w ∧
      a.verdict = val (asm w) ∧
      a.payload = if val (asm w) = .good then some (payloadOf (asm w)) else none)

/-- R156: a good frame right after a lost one is reached after 30 failing attempts in a row, unless one of the
overlapping windows is itself Good. -/
def Obligations.LostFrameCostsThirtyAttempts : Prop :=
  ∀ (stream : List Byte) (w : Codewords), stream.length = 60 → stream.drop 30 = w.toList → val (asm w) = .good →
    (∀ (o : Nat) (x : Codewords), o < 30 → (stream.drop o).take 30 = x.toList → val (asm x) ≠ .good) →
    (attempts stream).map (fun a => a.offset) = List.range 31 ∧
    (attempts stream).getLast? = some ⟨30, .good, some (payloadOf (asm w))⟩ ∧
    ∀ a ∈ (attempts stream).dropLast, a.verdict ≠ .good ∧ a.payload = none

/-- The code does its work end to end (R115, R126, R142): any payload, sent as a valid frame and with up to one flip
among positions 1 to 7 of every codeword, is emitted as it was sent. -/
def Obligations.SentPayloadIsEmittedDespiteOneFlipPerCodeword : Prop :=
  ∀ (s : State) (p : Payload) (w : Codewords), s.st = .checking → s.window = w.toList →
    (∀ i : Fin 30, checkedFlips (w[i.val] ^^^ (codewordsOf (frameOf p))[i.val]) ≤ 1) →
    exec .check s = .next { s with
      window := [], st := .filling, out := ⟨some .good, some p⟩
      observer := s.observer ++ [.good], sink := s.sink ++ [p] }

/-! ### Beside the rules -/

/-- On a window of 30 bytes or more in Filling, which no run reaches, PUSH still appends and stays in Filling. This is
the model's choice (log entry 9): R32 gives such a state no meaning. -/
def Obligations.PushOnAnUnreachableWindowAppends : Prop :=
  ∀ (b : Byte) (s : State), s.st = .filling → 30 ≤ s.window.length → exec (.push b) s = .next { s with
    window := s.window ++ [b], out := ⟨none, none⟩ }

/-- R83: a script runs as the untimed machine on the events of its items, every CHECK before the next item, a reset
included. How a script is presented is the model's (log entry 18); so are `observer` and `sink` (log entry 4). -/
def Obligations.ScriptRunsOnTheUntimedMachine : Prop :=
  ∀ (s : State) (items : List Item), s.st = .filling → s.window.length ≤ 29 → s.inputs = scriptInputs items →
    ∃ (k : Nat) (t : State), Sys2Proof.core.run k s = .next t ∧ t.inputs = [] ∧ t.st = .filling ∧
      t.window = (untimedRun s.window (items.flatMap Item.events)).1 ∧
      t.observer = s.observer ++ (untimedRun s.window (items.flatMap Item.events)).2.filterMap (fun o => o.verdict) ∧
      t.sink = s.sink ++ (untimedRun s.window (items.flatMap Item.events)).2.filterMap (fun o => o.payload) ∧
      t.probe = s.probe
end

