-- ==== Sys2Proof/Laws/Operands.lean ====
section
/-! SUPPORT. What the datapath functions do, element by element: the lemmas that later proofs cite instead of unfolding
`vectorOf?`, `asm`, `payloadOf`, `frameOf` and `codewordsOf`. -/

namespace Sys2Proof

/-- The only list that gives the vector `v` is `v`'s own. -/
theorem vectorOf?_eq_some {n : Nat} {l : List Byte} {v : Vector Byte n} :
    vectorOf? n l = some v ↔ l = v.toList := by
  unfold vectorOf?
  split
  next h =>
    constructor
    · intro e
      cases e
      rfl
    · rintro rfl
      rfl
  next h =>
    constructor
    · intro e
      cases e
    · rintro rfl
      exact absurd v.length_toList h

/-- A list of another length gives no vector. -/
theorem vectorOf?_eq_none {n : Nat} {l : List Byte} : vectorOf? n l = none ↔ l.length ≠ n := by
  unfold vectorOf?
  split <;> simp_all

@[simp] theorem vectorOf?_toList {n : Nat} (v : Vector Byte n) : vectorOf? n v.toList = some v :=
  vectorOf?_eq_some.2 rfl

end Sys2Proof

namespace Sys2Proof.Machine

theorem fullWindow_eq_some {l : List Byte} {w : Codewords} : fullWindow l = some w ↔ l = w.toList :=
  vectorOf?_eq_some

theorem fullWindow_eq_none {l : List Byte} : fullWindow l = none ↔ l.length ≠ 30 :=
  vectorOf?_eq_none

@[simp] theorem fullWindow_toList (w : Codewords) : fullWindow w.toList = some w :=
  vectorOf?_toList w

/-- A list of 30 bytes is the list of a full window. -/
theorem exists_codewords_of_length {l : List Byte} (h : l.length = 30) : ∃ w : Codewords, l = w.toList := by
  rcases e : fullWindow l with _ | w
  · exact absurd h (fullWindow_eq_none.1 e)
  · exact ⟨w, fullWindow_eq_some.1 e⟩

@[simp] theorem getElem_asm (w : Codewords) (j : Nat) (h : j < 15) :
    (asm w)[j] = packNibbles (decn w[2 * j]) (decn w[2 * j + 1]) := by
  simp [asm]

@[simp] theorem getElem_payloadOf (f : Frame) (k : Nat) (h : k < 12) : (payloadOf f)[k] = f[2 + k] := by
  simp [payloadOf]

/-- The high half of a packed byte is the first nibble. -/
@[simp] theorem packNibbles_high (hi lo : Nibble) : (packNibbles hi lo).extractLsb' 4 4 = hi := by
  revert hi lo
  decide

/-- The low half of a packed byte is the second nibble. -/
@[simp] theorem packNibbles_low (hi lo : Nibble) : (packNibbles hi lo).extractLsb' 0 4 = lo := by
  revert hi lo
  decide

/-- Packing the two halves of a byte gives the byte. -/
@[simp] theorem packNibbles_halves (b : Byte) : packNibbles (b.extractLsb' 4 4) (b.extractLsb' 0 4) = b := by
  revert b
  decide

/-- The two frame bytes that the sync test reads (R120). -/
theorem val_eq_noSync {f : Frame} : val f = .noSync ↔ (f[0] ≠ f[1] ∨ f[0] ≠ Config.sync) := by
  unfold val
  by_cases h : f[0] ≠ f[1] ∨ f[0] ≠ Config.sync
  · rw [if_pos h]
    exact iff_of_true rfl h
  · rw [if_neg h]
    refine iff_of_false ?_ h
    split <;> exact fun e => nomatch e

/-- A frame is valid when both tests hold (R120). -/
theorem val_eq_good {f : Frame} :
    val f = .good ↔ ¬ (f[0] ≠ f[1] ∨ f[0] ≠ Config.sync) ∧ checksum f = f[14] := by
  unfold val
  by_cases h : f[0] ≠ f[1] ∨ f[0] ≠ Config.sync
  · rw [if_pos h]
    exact iff_of_false (fun e => nomatch e) fun e => e.1 h
  · rw [if_neg h]
    by_cases hc : checksum f ≠ f[14]
    · rw [if_pos hc]
      exact iff_of_false (fun e => nomatch e) fun e => hc e.2
    · rw [if_neg hc]
      exact iff_of_true rfl ⟨h, not_not.1 hc⟩

end Sys2Proof.Machine
end

