-- ==== Sys2Proof/Laws/State.lean ====
section
/-! SUPPORT. One lemma per field and update of the state, each true by rfl, so that no proof unfolds a record update. -/

namespace Sys2Proof.Machine

variable (s : State)

/-! ### winAppend -/

@[simp] theorem State.winAppend_window (b : Byte) : (s.winAppend b).window = s.window ++ [b] := rfl
@[simp] theorem State.winAppend_st (b : Byte) : (s.winAppend b).st = s.st := rfl
@[simp] theorem State.winAppend_inputs (b : Byte) : (s.winAppend b).inputs = s.inputs := rfl
@[simp] theorem State.winAppend_out (b : Byte) : (s.winAppend b).out = s.out := rfl
@[simp] theorem State.winAppend_observer (b : Byte) : (s.winAppend b).observer = s.observer := rfl
@[simp] theorem State.winAppend_sink (b : Byte) : (s.winAppend b).sink = s.sink := rfl
@[simp] theorem State.winAppend_probe (b : Byte) : (s.winAppend b).probe = s.probe := rfl

/-! ### winSlide -/

@[simp] theorem State.winSlide_window : (s.winSlide).window = s.window.drop Config.slide := rfl
@[simp] theorem State.winSlide_st : (s.winSlide).st = s.st := rfl
@[simp] theorem State.winSlide_inputs : (s.winSlide).inputs = s.inputs := rfl
@[simp] theorem State.winSlide_out : (s.winSlide).out = s.out := rfl
@[simp] theorem State.winSlide_observer : (s.winSlide).observer = s.observer := rfl
@[simp] theorem State.winSlide_sink : (s.winSlide).sink = s.sink := rfl
@[simp] theorem State.winSlide_probe : (s.winSlide).probe = s.probe := rfl

/-! ### winClear -/

@[simp] theorem State.winClear_window : (s.winClear).window = [] := rfl
@[simp] theorem State.winClear_st : (s.winClear).st = s.st := rfl
@[simp] theorem State.winClear_inputs : (s.winClear).inputs = s.inputs := rfl
@[simp] theorem State.winClear_out : (s.winClear).out = s.out := rfl
@[simp] theorem State.winClear_observer : (s.winClear).observer = s.observer := rfl
@[simp] theorem State.winClear_sink : (s.winClear).sink = s.sink := rfl
@[simp] theorem State.winClear_probe : (s.winClear).probe = s.probe := rfl

/-! ### setSt -/

@[simp] theorem State.setSt_window (q : SyncState) : (s.setSt q).window = s.window := rfl
@[simp] theorem State.setSt_st (q : SyncState) : (s.setSt q).st = q := rfl
@[simp] theorem State.setSt_inputs (q : SyncState) : (s.setSt q).inputs = s.inputs := rfl
@[simp] theorem State.setSt_out (q : SyncState) : (s.setSt q).out = s.out := rfl
@[simp] theorem State.setSt_observer (q : SyncState) : (s.setSt q).observer = s.observer := rfl
@[simp] theorem State.setSt_sink (q : SyncState) : (s.setSt q).sink = s.sink := rfl
@[simp] theorem State.setSt_probe (q : SyncState) : (s.setSt q).probe = s.probe := rfl

/-! ### silence -/

@[simp] theorem State.silence_window : (s.silence).window = s.window := rfl
@[simp] theorem State.silence_st : (s.silence).st = s.st := rfl
@[simp] theorem State.silence_inputs : (s.silence).inputs = s.inputs := rfl
@[simp] theorem State.silence_out : (s.silence).out = .silent := rfl
@[simp] theorem State.silence_observer : (s.silence).observer = s.observer := rfl
@[simp] theorem State.silence_sink : (s.silence).sink = s.sink := rfl
@[simp] theorem State.silence_probe : (s.silence).probe = s.probe := rfl

/-! ### emitVerdict -/

@[simp] theorem State.emitVerdict_window (v : Verdict) : (s.emitVerdict v).window = s.window := rfl
@[simp] theorem State.emitVerdict_st (v : Verdict) : (s.emitVerdict v).st = s.st := rfl
@[simp] theorem State.emitVerdict_inputs (v : Verdict) : (s.emitVerdict v).inputs = s.inputs := rfl
@[simp] theorem State.emitVerdict_out (v : Verdict) : (s.emitVerdict v).out = { s.out with verdict := some v } := rfl
@[simp] theorem State.emitVerdict_observer (v : Verdict) : (s.emitVerdict v).observer = s.observer ++ [v] := rfl
@[simp] theorem State.emitVerdict_sink (v : Verdict) : (s.emitVerdict v).sink = s.sink := rfl
@[simp] theorem State.emitVerdict_probe (v : Verdict) : (s.emitVerdict v).probe = s.probe := rfl

/-! ### emitPayload -/

@[simp] theorem State.emitPayload_window (p : Payload) : (s.emitPayload p).window = s.window := rfl
@[simp] theorem State.emitPayload_st (p : Payload) : (s.emitPayload p).st = s.st := rfl
@[simp] theorem State.emitPayload_inputs (p : Payload) : (s.emitPayload p).inputs = s.inputs := rfl
@[simp] theorem State.emitPayload_out (p : Payload) : (s.emitPayload p).out = { s.out with payload := some p } := rfl
@[simp] theorem State.emitPayload_observer (p : Payload) : (s.emitPayload p).observer = s.observer := rfl
@[simp] theorem State.emitPayload_sink (p : Payload) : (s.emitPayload p).sink = s.sink ++ [p] := rfl
@[simp] theorem State.emitPayload_probe (p : Payload) : (s.emitPayload p).probe = s.probe := rfl

/-! ### present -/

@[simp] theorem State.present_window (v : FnValue) : (s.present v).window = s.window := rfl
@[simp] theorem State.present_st (v : FnValue) : (s.present v).st = s.st := rfl
@[simp] theorem State.present_inputs (v : FnValue) : (s.present v).inputs = s.inputs := rfl
@[simp] theorem State.present_out (v : FnValue) : (s.present v).out = s.out := rfl
@[simp] theorem State.present_observer (v : FnValue) : (s.present v).observer = s.observer := rfl
@[simp] theorem State.present_sink (v : FnValue) : (s.present v).sink = s.sink := rfl
@[simp] theorem State.present_probe (v : FnValue) : (s.present v).probe = some v := rfl

end Sys2Proof.Machine
end

