-- ==== Sys2Proof/Laws/Ops.lean ====
section
/-! SUPPORT. One lemma for each shared operation of the state that says all it can do. -/

namespace Sys2Proof.Machine

/-- An operation answers a next state only where its "requires" line is met (R24). -/
theorem requireSt_eq_next {s t : State} {q : SyncState} {r : Result} :
    s.requireSt q r = .next t ↔ s.st = q ∧ r = .next t := by
  unfold State.requireSt
  split <;> simp_all

/-- The end of a Good attempt (R141). -/
theorem conclude_good {s : State} {f : Frame} (h : val f = .good) :
    s.conclude f = { s with
      window := [], st := .filling, out := ⟨some .good, some (payloadOf f)⟩
      observer := s.observer ++ [.good], sink := s.sink ++ [payloadOf f] } := by
  simp only [State.conclude, h, if_true]
  rfl

/-- The end of a failing attempt (R143, R144). -/
theorem conclude_failing {s : State} {f : Frame} (h : val f ≠ .good) :
    s.conclude f = { s with
      window := s.window.tail, st := .filling, out := ⟨some (val f), none⟩
      observer := s.observer ++ [val f] } := by
  simp only [State.conclude, h, if_false]
  simp [State.setSt, State.winSlide, State.emitVerdict, State.silence]

@[simp] theorem conclude_st (s : State) (f : Frame) : (s.conclude f).st = .filling := by
  unfold State.conclude
  split <;> rfl

@[simp] theorem conclude_inputs (s : State) (f : Frame) : (s.conclude f).inputs = s.inputs := by
  unfold State.conclude
  split <;> rfl

@[simp] theorem conclude_probe (s : State) (f : Frame) : (s.conclude f).probe = s.probe := by
  unfold State.conclude
  split <;> rfl

/-- What one attempt delivers: its verdict to the observer, its payload (if any) to the sink (R51). -/
theorem conclude_delivers (s : State) (f : Frame) :
    (s.conclude f).out.verdict = some (val f) ∧ (s.conclude f).observer = s.observer ++ [val f] ∧
    (s.conclude f).sink = s.sink ++ (s.conclude f).out.payload.toList ∧
    ((s.conclude f).out.payload.isSome = true ↔ val f = .good) := by
  by_cases h : val f = .good
  · simp [conclude_good h, h]
  · simp [conclude_failing h, h]

end Sys2Proof.Machine
end

