-- ==== Sys2Proof/Laws/Step.lean ====
section
/-! SUPPORT. What an edge samples and uses up, and everything an operation can do, said once. -/

namespace Sys2Proof

/-- The cascade of R79 on a word made of its parts. -/
theorem decodeOsw_packOsw (rst st inValid inEos : Bool) (inData : Byte) :
    decodeOsw (packOsw rst st inValid inEos inData) =
      if rst then .reset else if st then .check else if !inValid then .idle else if inEos then .eos
      else .push inData := by
  have h11 : (packOsw rst st inValid inEos inData).getLsbD 11 = rst := by
    simp only [packOsw, BitVec.getLsbD_append]
    simp
  have h10 : (packOsw rst st inValid inEos inData).getLsbD 10 = st := by
    simp only [packOsw, BitVec.getLsbD_append]
    simp
  have h9 : (packOsw rst st inValid inEos inData).getLsbD 9 = inValid := by
    simp only [packOsw, BitVec.getLsbD_append]
    simp
  have h8 : (packOsw rst st inValid inEos inData).getLsbD 8 = inEos := by
    simp only [packOsw, BitVec.getLsbD_append]
    simp
  have hd : (packOsw rst st inValid inEos inData).extractLsb' 0 8 = inData := by
    ext i hi
    simp only [packOsw, BitVec.getElem_extractLsb', BitVec.getLsbD_append]
    simp [hi]
  simp only [decodeOsw, oswRst, oswSt, oswInValid, oswInEos, oswInData, h11, h10, h9, h8, hd]

namespace Machine

/-- What the next edge selects, from the pins and `st` (R78, R150). -/
theorem decodeOsw_osw (s : State) : decodeOsw s.osw =
    if s.pins.rst then .reset else if s.st = .checking then .check else if !s.pins.inValid then .idle
    else if s.pins.inEos then .eos else .push s.pins.inData := by
  rw [State.osw, decodeOsw_packOsw]
  cases s.st <;> simp

/-- An edge uses up inputs and nothing else. -/
theorem takeInput_eq (s : State) : s.takeInput = { s with inputs := s.takeInput.inputs } := by
  unfold State.takeInput
  split
  · rfl
  · split <;> rfl

@[simp] theorem takeInput_window (s : State) : s.takeInput.window = s.window := by rw [takeInput_eq]
@[simp] theorem takeInput_st (s : State) : s.takeInput.st = s.st := by rw [takeInput_eq]
@[simp] theorem takeInput_out (s : State) : s.takeInput.out = s.out := by rw [takeInput_eq]
@[simp] theorem takeInput_observer (s : State) : s.takeInput.observer = s.observer := by rw [takeInput_eq]
@[simp] theorem takeInput_sink (s : State) : s.takeInput.sink = s.sink := by rw [takeInput_eq]
@[simp] theorem takeInput_probe (s : State) : s.takeInput.probe = s.probe := by rw [takeInput_eq]

/-- Everything an operation can do, when it answers a next state: the five operations' effects on CORE's state, or
a function row's on `probe`. -/
theorem exec_cases {i : Instr} {s t : State} (h : exec i s = .next t) :
    ((i = .reset ∨ i = .eos ∧ s.st = .filling) ∧ t = { s with window := [], st := .filling, out := .silent }) ∨
    (∃ b, i = .push b ∧ s.st = .filling ∧ t = { s with
      window := s.window ++ [b]
      st := if s.window.length + 1 = 30 then .checking else .filling
      out := .silent }) ∨
    (∃ (w : Codewords) (f : Frame), i = .check ∧ s.st = .checking ∧ s.window = w.toList ∧ f = asm w ∧
      t = s.conclude f) ∨
    (i = .idle ∧ s.st = .filling ∧ t = { s with out := .silent }) ∨
    (i.wellFormed = false ∧ ∃ v, t = { s with probe := some v }) := by
  cases i with
  | reset => exact .inl ⟨.inl rfl, (Host.Outcome.next.inj h).symm⟩
  | eos =>
    obtain ⟨hst, e⟩ := requireSt_eq_next.1 h
    exact .inl ⟨.inr ⟨rfl, hst⟩, (Host.Outcome.next.inj e).symm⟩
  | push b =>
    obtain ⟨hst, e⟩ := requireSt_eq_next.1 h
    refine .inr (.inl ⟨b, rfl, hst, (Host.Outcome.next.inj e).symm.trans ?_⟩)
    simp only [State.winAppend_window, List.length_append, List.length_singleton]
    rfl
  | check =>
    obtain ⟨hst, e⟩ := requireSt_eq_next.1 h
    rcases hw : fullWindow s.window with _ | w
    · rw [hw] at e
      exact nomatch e
    · rw [hw] at e
      exact .inr (.inr (.inl ⟨w, _, rfl, hst, fullWindow_eq_some.1 hw, rfl, (Host.Outcome.next.inj e).symm⟩))
  | idle =>
    obtain ⟨hst, e⟩ := requireSt_eq_next.1 h
    exact .inr (.inr (.inr (.inl ⟨rfl, hst, (Host.Outcome.next.inj e).symm⟩)))
  | synd c | corr c | extr c | decn c | asm c | val c =>
    exact .inr (.inr (.inr (.inr ⟨rfl, _, (Host.Outcome.next.inj h).symm⟩)))

theorem filling_of_ne_checking {s : State} (h : s.st ≠ .checking) : s.st = .filling := by
  cases e : s.st
  · rfl
  · exact absurd e h

/-- Everything a step can do, with what the pins said (R150). `f` is kept apart from `asm w`, so that a proof can
replace `t` without computing the frame. -/
theorem step_cases {s t : State} (h : step s = .next t) :
    (s.pins.rst = true ∧ t = { s.takeInput with window := [], st := .filling, out := .silent }) ∨
    (s.pins.rst = false ∧ s.st = .filling ∧ s.pins.inValid = true ∧ s.pins.inEos = true ∧
      t = { s.takeInput with window := [], st := .filling, out := .silent }) ∨
    (s.pins.rst = false ∧ s.st = .filling ∧ s.pins.inValid = true ∧ s.pins.inEos = false ∧ t = { s.takeInput with
      window := s.window ++ [s.pins.inData]
      st := if s.window.length + 1 = 30 then .checking else .filling
      out := .silent }) ∨
    (∃ (w : Codewords) (f : Frame), s.pins.rst = false ∧ s.st = .checking ∧ s.window = w.toList ∧ f = asm w ∧
      t = s.takeInput.conclude f) ∨
    (s.pins.rst = false ∧ s.st = .filling ∧ s.pins.inValid = false ∧ t = { s.takeInput with out := .silent }) := by
  have hd := decodeOsw_osw s
  rw [step] at h
  cases hr : s.pins.rst with
  | true =>
    rw [hd, hr] at h
    exact .inl ⟨rfl, (Host.Outcome.next.inj h).symm⟩
  | false =>
    refine .inr ?_
    by_cases hc : s.st = .checking
    · simp only [hr, hc, Bool.false_eq_true, if_false, if_true] at hd
      rw [hd] at h
      rcases exec_cases h with ⟨e, -⟩ | ⟨b, e, -⟩ | ⟨w, f, -, -, hw, hf, ht⟩ | ⟨e, -⟩ | ⟨e, -⟩
      · simp at e
      · exact nomatch e
      · exact .inr (.inr (.inl ⟨w, f, rfl, hc, by simpa using hw, hf, ht⟩))
      · exact nomatch e
      · exact absurd e (by decide)
    · have hst := filling_of_ne_checking hc
      cases hv : s.pins.inValid with
      | false =>
        simp only [hr, hc, hv, Bool.false_eq_true, if_false, Bool.not_false, if_true] at hd
        rw [hd] at h
        exact .inr (.inr (.inr ⟨rfl, hst, rfl, (Host.Outcome.next.inj (requireSt_eq_next.1 h).2).symm⟩))
      | true =>
        cases he : s.pins.inEos with
        | false =>
          simp only [hr, hc, hv, he, Bool.false_eq_true, if_false, Bool.not_true] at hd
          rw [hd] at h
          rcases exec_cases h with ⟨e, -⟩ | ⟨b, e, -, ht⟩ | ⟨w, f, e, -⟩ | ⟨e, -⟩ | ⟨e, -⟩
          · simp at e
          · cases e
            refine .inr (.inl ⟨rfl, hst, rfl, rfl, ht.trans ?_⟩)
            rw [takeInput_window]
          · exact nomatch e
          · exact nomatch e
          · exact absurd e (by simp [Instr.wellFormed, Instr.format])
        | true =>
          simp only [hr, hc, hv, he, Bool.false_eq_true, if_false, Bool.not_true, if_true] at hd
          rw [hd] at h
          exact .inl ⟨rfl, hst, rfl, rfl, (Host.Outcome.next.inj (requireSt_eq_next.1 h).2).symm⟩

/-- One more step in front of a run. -/
theorem run_succ (M : Host.Core) (k : Nat) {s t : M.State} (h : M.step s = .next t) :
    M.run (k + 1) s = M.run k t := by
  simp only [Host.Core.run, h]

/-- One iteration of `RUN(S)` (R153). -/
theorem runFrom_succ (stream : List Byte) (fuel o : Nat) :
    runFrom stream (fuel + 1) o = match fullWindow ((stream.drop o).take 30) with
      | none => ([], o)
      | some w =>
        if val (asm w) = .good then
          (⟨o, .good, some (payloadOf (asm w))⟩ :: (runFrom stream fuel (o + 30)).1,
            (runFrom stream fuel (o + 30)).2)
        else (⟨o, val (asm w), none⟩ :: (runFrom stream fuel (o + 1)).1, (runFrom stream fuel (o + 1)).2) :=
  rfl

/-- `RUN(S)` makes no attempt on fewer than 30 bytes (R153). -/
theorem runFrom_of_short {stream : List Byte} {o : Nat} (h : stream.length < o + 30) (fuel : Nat) :
    runFrom stream fuel o = ([], o) := by
  cases fuel with
  | zero => rfl
  | succ n =>
    rw [runFrom_succ, fullWindow_eq_none.2]
    simp only [List.length_take, List.length_drop]
    omega

@[simp] theorem untimedRun_nil (w : List Byte) : untimedRun w [] = (w, []) := rfl

@[simp] theorem untimedRun_cons (w : List Byte) (e : Event) (later : List Event) :
    untimedRun w (e :: later) = ((untimedRun (untimedStep w e).1 later).1,
      (untimedStep w e).2 :: (untimedRun (untimedStep w e).1 later).2) :=
  rfl

end Machine

end Sys2Proof
end

