-- ==== Sys2Proof/Laws/PerInstr.lean ====
section
/-! SUPPORT. The lemmas that hold of every row of the table, one per constructor. -/

namespace Sys2Proof.Laws.RowMatchesItsWord

/-- An operation's word matches the row of its own name and no other row of the map (R78, R79). -/
def Statement (i : Instr) : Prop :=
  ∀ w : Osw, encode i = .word w → ∀ r ∈ opRows, r.matchesWord w = true ↔ i.opName = some r.name

theorem reset : Statement .reset := by
  intro w h
  cases h
  decide

theorem check : Statement .check := by
  intro w h
  cases h
  decide

theorem push (b : Byte) : Statement (.push b) := by
  intro w h
  cases h
  revert b
  decide

theorem eos : Statement .eos := by
  intro w h
  cases h
  decide

theorem idle : Statement .idle := by
  intro w h
  cases h
  decide

theorem synd (c : Byte) : Statement (.synd c) := fun _ h => by cases h

theorem corr (c : Byte) : Statement (.corr c) := fun _ h => by cases h

theorem extr (c : Byte) : Statement (.extr c) := fun _ h => by cases h

theorem decn (c : Byte) : Statement (.decn c) := fun _ h => by cases h

theorem asm (w : Codewords) : Statement (.asm w) := fun _ h => by cases h

theorem val (f : Frame) : Statement (.val f) := fun _ h => by cases h

end Sys2Proof.Laws.RowMatchesItsWord
end

