-- ==== Sys2Proof/Laws/Ports.lean ====
section
/-! SUPPORT. The ports of a cycle, case by case (spec/43_stream_synchronizer.md R151). -/

namespace Sys2Proof.Machine

/-- The cycle that makes an attempt (R74). -/
theorem attemptFrame_of_checking {s : State} {w : Codewords} (hr : s.pins.rst = false) (hc : s.st = .checking)
    (hw : s.window = w.toList) : s.attemptFrame = some (asm w) := by
  rw [State.attemptFrame, hr, hc, hw, fullWindow_toList]
  rfl

/-- A cycle in Filling makes no attempt (R74). -/
theorem attemptFrame_of_filling {s : State} (hf : s.st = .filling) : s.attemptFrame = none := by
  rw [State.attemptFrame, hf]
  split <;> rfl

/-- A cycle with `rst == 1` makes no attempt (R201). -/
theorem attemptFrame_of_rst {s : State} (hr : s.pins.rst = true) : s.attemptFrame = none := by
  rw [State.attemptFrame, hr]
  rfl

/-- The ports in a cycle that makes an attempt (R151). -/
theorem ports_of_attempt {s : State} {f : Frame} (h : s.attemptFrame = some f) :
    s.ports.evVerdict = some (val f).code ∧ s.ports.outValid = (val f == .good) ∧
    s.ports.outData = if val f = .good then some (payloadBus (payloadOf f)) else none := by
  simp only [State.ports, h, Option.map_some, Option.any_some, Option.bind_some, and_self]

/-- The ports in a cycle that makes none (R75, R151). -/
theorem ports_of_no_attempt {s : State} (h : s.attemptFrame = none) :
    s.ports.evVerdict = none ∧ s.ports.outValid = false ∧ s.ports.outData = none := by
  simp only [State.ports, h, Option.map_none, Option.any_none, Option.bind_none, and_self]

end Sys2Proof.Machine
end

