-- ==== Sys2Proof/Tests/Slice0.lean ====
section
/-! SUPPORT. The model's own tests. Expected values are those of spec/95_test_vectors.md and of the rules named; none is
an answer of the model. The last part shows, for each statement of Obligations.lean that has hypotheses, states and
operands that meet them, at the boundary values of each clause. -/

namespace Sys2Proof.Tests

open Sys2Proof.Machine

/-! ### Helpers -/

/-- The state after reset with another window, `st` and environment. -/
def stateWith (q : SyncState) (w : List Byte) (inputs : List Stim) : State :=
  { State.reset with window := w, st := q, inputs := inputs }

/-- The next state, if there is one. -/
def nextOf : Result → Option State
  | .next t => some t
  | .fault _ => none
  | .refused _ => none

/-- What the observer, the sink and the next operation see of a result. -/
def seen (r : Result) : Option (SyncState × List Byte × Output) :=
  (nextOf r).map fun t => (t.st, t.window, t.out)

/-- What the result shows of a datapath function. -/
def probeOf (r : Result) : Option FnValue :=
  (nextOf r).bind fun t => t.probe

/-- The bytes of A1: the clean window of the payload `[0x12]*12`, `G` of section 5.2. -/
def cleanBytes : List Byte :=
  [0xA4#8, 0xA4#8, 0xA4#8, 0xA4#8, 0x0E#8, 0x32#8, 0x0E#8, 0x32#8, 0x0E#8, 0x32#8] ++
  [0x0E#8, 0x32#8, 0x0E#8, 0x32#8, 0x0E#8, 0x32#8, 0x0E#8, 0x32#8, 0x0E#8, 0x32#8] ++
  [0x0E#8, 0x32#8, 0x0E#8, 0x32#8, 0x0E#8, 0x32#8, 0x0E#8, 0x32#8, 0x00#8, 0x00#8]

/-- `G` as the operand of ASM. -/
def cleanWindow : Codewords :=
  Vector.ofFn fun i : Fin 30 => cleanBytes.getD i.val 0#8

/-- `Z` of section 5.2. -/
def zeroWindow : Codewords :=
  Vector.replicate 30 0#8

/-- `G` with the codeword of nibble 1 where that of 0 was due (O5). -/
def badChecksumWindow : Codewords :=
  cleanWindow.set 29 0x0E#8

/-- The bytes of A5. -/
def mixedBytes : List Byte :=
  [0xA4#8, 0xA4#8, 0xA4#8, 0xA4#8, 0xCC#8, 0xF0#8, 0xA4#8, 0xCC#8, 0xAA#8, 0xF0#8] ++
  [0xF0#8, 0xFE#8, 0x00#8, 0x0E#8, 0x32#8, 0x3C#8, 0x54#8, 0x5A#8, 0x66#8, 0x68#8] ++
  [0x96#8, 0x98#8, 0xA4#8, 0xAA#8, 0xC2#8, 0xCC#8, 0xF0#8, 0xFE#8, 0x32#8, 0x32#8]

/-- The bytes of A6: A5 with bit `(i mod 7) + 1` of codeword `i` flipped. -/
def flippedBytes : List Byte :=
  [0xA6#8, 0xA0#8, 0xAC#8, 0xB4#8, 0xEC#8, 0xB0#8, 0x24#8, 0xCE#8, 0xAE#8, 0xF8#8] ++
  [0xE0#8, 0xDE#8, 0x40#8, 0x8E#8, 0x30#8, 0x38#8, 0x5C#8, 0x4A#8, 0x46#8, 0x28#8] ++
  [0x16#8, 0x9A#8, 0xA0#8, 0xA2#8, 0xD2#8, 0xEC#8, 0xB0#8, 0x7E#8, 0x30#8, 0x36#8]

/-- The frame of A5 and A6, V3 of section 4. -/
def mixedFrameBytes : List Byte :=
  [0xAA#8, 0xAA#8, 0xDE#8, 0xAD#8, 0xBE#8, 0xEF#8, 0x01#8, 0x23#8, 0x45#8, 0x67#8, 0x89#8, 0xAB#8, 0xCD#8, 0xEF#8, 0x22#8]

/-- A window of a test, from its bytes. -/
def windowOf (l : List Byte) : Codewords :=
  Vector.ofFn fun i : Fin 30 => l.getD i.val 0#8

/-- A frame of a test, from its bytes. -/
def frameOfBytes (l : List Byte) : Frame :=
  Vector.ofFn fun j : Fin 15 => l.getD j.val 0#8

/-- The byte `b` of section 4 in the places 2 to 13 between two sync bytes and a checksum byte. -/
def flatFrame (f0 f1 b ck : Byte) : Frame :=
  frameOfBytes ([f0, f1] ++ List.replicate 12 b ++ [ck])

/-! ### WellFormed -/

/-- The one check refuses every function row: no operation-select word selects it (R78, R80). -/
theorem test_function_rows_are_no_step :
    (Instr.synd 0xA4#8).wellFormed = false ∧ (Instr.corr 0xA4#8).wellFormed = false ∧
    (Instr.extr 0xA4#8).wellFormed = false ∧ (Instr.decn 0xA4#8).wellFormed = false ∧
    (Instr.asm zeroWindow).wellFormed = false ∧ (Instr.val (flatFrame 0 0 0 0)).wellFormed = false := by
  decide

theorem test_operations_are_steps :
    [Instr.reset, .check, .push 0xA4#8, .eos, .idle].all Instr.wellFormed = true := by
  decide

/-! ### Decode: words from R78 and section 5.1, bit 11 first -/

theorem test_decode_reset : decodeOsw 0b100000000000#12 = .reset ∧ decodeOsw 0b111111111111#12 = .reset := by decide

theorem test_decode_check : decodeOsw 0b010000000000#12 = .check ∧ decodeOsw 0b011100000000#12 = .check := by decide

theorem test_decode_push : decodeOsw 0b001000000000#12 = .push 0x00#8 ∧
    decodeOsw 0b001010100100#12 = .push 0xA4#8 ∧ decodeOsw 0b001011111111#12 = .push 0xFF#8 := by
  decide

theorem test_decode_eos : decodeOsw 0b001100000000#12 = .eos ∧ decodeOsw 0b001110100100#12 = .eos := by decide

theorem test_decode_idle : decodeOsw 0b000000000000#12 = .idle ∧ decodeOsw 0b000111111111#12 = .idle := by decide

/-- The operand of a codeword function is one byte (R85). -/
theorem test_decode_codeword_functions :
    decode (.operand .synd [0b10100100#8]) = .ok (.synd 0xA4#8) ∧
    decode (.operand .corr [0b10100101#8]) = .ok (.corr 0xA5#8) ∧
    decode (.operand .extr [0b00001000#8]) = .ok (.extr 0x08#8) ∧
    decode (.operand .decn [0b01111111#8]) = .ok (.decn 0x7F#8) := by
  decide

/-- The operand of ASM is `W[0]` first, that of VAL `F[0]` first (R85). -/
theorem test_decode_asm_and_val :
    decode (.operand .asm mixedBytes) = .ok (.asm (windowOf mixedBytes)) ∧
    decode (.operand .val mixedFrameBytes) = .ok (.val (frameOfBytes mixedFrameBytes)) := by
  decide

/-- Every rejection of the decoder, by name. -/
theorem test_decode_rejections :
    decodeBytes [0xA4#8] = .error .oswNotTwoBytes ∧ decodeBytes [0xA4#8, 0x12#8] = .error .bitsAboveOsw ∧
    decode (.operand .synd []) = .error .codewordNotOneByte ∧
    decode (.operand .asm (List.replicate 29 0#8)) = .error .assemblerInputNot30Bytes ∧
    decode (.operand .val (List.replicate 16 0#8)) = .error .validatorInputNot15Bytes := by
  decide

/-! ### The nibble decoder -/

/-- Section 2.2, one number a row. -/
def syndRows : List Nat :=
  [0x0011223333221100, 0x4455667777665544, 0x5544776666774455, 0x1100332222330011] ++
  [0x6677445555447766, 0x2233001111003322, 0x3322110000112233, 0x7766554444556677] ++
  [0x7766554444556677, 0x3322110000112233, 0x2233001111003322, 0x6677445555447766] ++
  [0x1100332222330011, 0x5544776666774455, 0x4455667777665544, 0x0011223333221100]

/-- Section 2.3, one number a row. -/
def decnRows : List Nat :=
  [0x0000001100111111, 0x0022448899553311, 0x0022AA6677BB3311, 0x2222332233223333] ++
  [0x00CC44667755DD11, 0x4455444455554455, 0x7766666677777766, 0xEE224466775533FF] ++
  [0x00CCAA8899BBDD11, 0x9988888899999988, 0xAABBAAAABBBBAABB, 0xEE22AA8899BB33FF] ++
  [0xCCCCDDCCDDCCDDDD, 0xEECC44889955DDFF, 0xEECCAA6677BBDDFF, 0xEEEEEEFFEEFFFFFF]

/-- The entry of a table for `c`: the row is its high hex digit, the column its low one. -/
def tableEntry (table : List Nat) (c : Byte) : Nat :=
  table.getD (c.toNat / 16) 0 / 16 ^ (15 - c.toNat % 16) % 16

/-- Section 2.2, all 256 bytes. -/
theorem test_synd_table : ∀ c : Byte, (synd c).toNat = tableEntry syndRows c := by decide

/-- Section 2.3, all 256 bytes. -/
theorem test_decn_table : ∀ c : Byte, (decn c).toNat = tableEntry decnRows c := by decide

/-- Section 2.5: `A4` with bit 7 flipped. -/
theorem test_synd_presents_its_result : probeOf (exec (.synd 0x24#8) State.reset) = some (.syndrome 7#3) := by decide

/-- Section 2.4: bits 1 and 2 of `32` flipped, and bit 0 alone. -/
theorem test_corr : probeOf (exec (.corr 0x34#8) State.reset) = some (.codeword 0x3C#8) ∧
    probeOf (exec (.corr 0xA5#8) State.reset) = some (.codeword 0xA5#8) := by
  decide

/-- Section 2.4: the data bits as they are, before any correction. -/
theorem test_extr : probeOf (exec (.extr 0x80#8) State.reset) = some (.nibble 8#4) ∧
    probeOf (exec (.extr 0x08#8) State.reset) = some (.nibble 1#4) := by
  decide

/-- Section 2.4: the byte `AA` is a codeword of B, and the raw 8 of `80` is corrected to 0. -/
theorem test_decn : probeOf (exec (.decn 0xAA#8) State.reset) = some (.nibble 0xB#4) ∧
    probeOf (exec (.decn 0x80#8) State.reset) = some (.nibble 0#4) := by
  decide

/-! ### The frame assembler and the frame validator -/

/-- A5. -/
theorem test_asm_order : probeOf (exec (.asm (windowOf mixedBytes)) State.reset) =
    some (.frame (frameOfBytes mixedFrameBytes)) := by
  decide

/-- A6. -/
theorem test_asm_masks_flips : probeOf (exec (.asm (windowOf flippedBytes)) State.reset) =
    some (.frame (frameOfBytes mixedFrameBytes)) := by
  decide

/-- V1, V8, V9, V10, V11. -/
theorem test_val_sync_and_checksum :
    probeOf (exec (.val (flatFrame 0xAA#8 0xAA#8 0x12#8 0x00#8)) State.reset) = some (.verdict .good) ∧
    probeOf (exec (.val (flatFrame 0x55#8 0x55#8 0x00#8 0x00#8)) State.reset) = some (.verdict .noSync) ∧
    probeOf (exec (.val (flatFrame 0xAB#8 0xAA#8 0x12#8 0x00#8)) State.reset) = some (.verdict .noSync) ∧
    probeOf (exec (.val (flatFrame 0xAA#8 0xAB#8 0x12#8 0x55#8)) State.reset) = some (.verdict .noSync) ∧
    probeOf (exec (.val (flatFrame 0xAA#8 0xAA#8 0x12#8 0x01#8)) State.reset) = some (.verdict .wrongChecksum) := by
  decide

/-- V3, V12, V13: a mixed payload, with its checksum byte changed, and with a payload byte changed. -/
theorem test_val_covers_the_payload :
    val (frameOfBytes mixedFrameBytes) = .good ∧
    val ((frameOfBytes mixedFrameBytes).set 14 0x23#8) = .wrongChecksum ∧
    val ((frameOfBytes mixedFrameBytes).set 5 0x6F#8) = .wrongChecksum := by
  decide

/-! ### The operations (section 5.2) -/

/-- O9, and O10: the attempt is suppressed. -/
theorem test_reset :
    seen (exec .reset (stateWith .filling (cleanBytes.take 17) [])) = some (.filling, [], .silent) ∧
    seen (exec .reset (stateWith .checking cleanBytes [])) = some (.filling, [], .silent) := by
  decide

/-- A reset edge with a byte offered takes no byte (`AA4` of section 5.1). -/
theorem test_reset_wins_over_a_byte :
    seen (step (stateWith .filling [0x00#8] [.cycle ⟨true, true, false, 0xA4#8⟩])) = some (.filling, [], .silent) := by
  decide

/-- O2. -/
theorem test_push : seen (exec (.push 0xA4#8) (stateWith .filling [0xA4#8] [])) =
    some (.filling, [0xA4#8, 0xA4#8], .silent) := by
  decide

/-- The 29th and the 30th byte (R138): only the 30th makes the state Checking. -/
theorem test_push_fills_the_window :
    (seen (exec (.push 0x00#8) (stateWith .filling (cleanBytes.take 28) []))).map (fun x => x.1) = some .filling ∧
    seen (exec (.push 0x00#8) (stateWith .filling (cleanBytes.take 29) [])) = some (.checking, cleanBytes, .silent) := by
  decide

/-- O11. -/
theorem test_check_good : seen (exec .check (stateWith .checking cleanBytes [])) =
    some (.filling, [], ⟨some .good, some (Vector.replicate 12 0x12#8)⟩) := by
  decide

/-- O5 and O12: the two failing verdicts slide by one byte. -/
theorem test_check_failing :
    seen (exec .check (stateWith .checking badChecksumWindow.toList [])) =
      some (.filling, cleanBytes.tail.take 28 ++ [0x0E#8], ⟨some .wrongChecksum, none⟩) ∧
    seen (exec .check (stateWith .checking zeroWindow.toList [])) =
      some (.filling, List.replicate 29 0#8, ⟨some .noSync, none⟩) := by
  decide

/-- O6. -/
theorem test_eos : seen (exec .eos (stateWith .filling [0xA4#8, 0xA4#8, 0xA4#8] [])) =
    some (.filling, [], .silent) := by
  decide

/-- O8, after a check that presented something. -/
theorem test_idle : seen (exec .idle { stateWith .filling [0x00#8] [] with out := ⟨some .noSync, none⟩ }) =
    some (.filling, [0x00#8], .silent) := by
  decide

/-! ### The step -/

/-- `6A4` of section 5.1: in Checking the byte is not taken and the source keeps it. -/
theorem test_step_keeps_the_byte_in_checking :
    (nextOf (step (stateWith .checking cleanBytes [.event (.byte 0xA4#8)]))).map (fun t => (t.window, t.inputs)) =
      some ([], [.event (.byte 0xA4#8)]) := by
  decide

/-- A word placed for the very next step: `2A4` after reset. -/
theorem test_placed_word_runs :
    seen (step (State.reset.withFetchWord 16 0b001010100100)) = some (.filling, [0xA4#8], .silent) := by
  decide

/-- R73 and R75: the ports of the cycle of O11, with `P[0]` in the low byte of the bus. -/
theorem test_ports_of_a_good_attempt :
    (stateWith .checking mixedBytes []).ports =
      ⟨false, 30#5, true, some 0b10#2, true, some 0xEFCDAB8967452301EFBEADDE#96⟩ := by
  decide

/-- R202: the ports after reset. -/
theorem test_ports_after_reset : State.reset.ports = ⟨true, 0#5, false, none, false, none⟩ := by decide

/-- Section 2.1, and R84's `ENCB 12`, `GARB 2 FF`. -/
theorem test_script_items : cw 0xA#4 = 0xA4#8 ∧ cw 0x7#4 = 0x68#8 ∧
    (Item.encb 0x12#8).events = [.byte 0x0E#8, .byte 0x32#8] ∧
    (Item.garb 2 0xFF#8).events = [.byte 0xFF#8, .byte 0xFF#8] ∧
    (Item.frame (Vector.replicate 12 0x12#8)).events = cleanBytes.map .byte := by
  decide

/-- R83: a reset item waits for the CHECK that the 30th byte implies. -/
theorem test_script_checks_before_a_reset :
    (nextOf (step (stateWith .checking cleanBytes (scriptInputs [.rst])))).map (fun t => (t.out.verdict, t.inputs)) =
      some (some .good, scriptInputs [.rst]) := by
  decide

/-! ### Witnesses: the hypotheses of the statements are met

Every `witness_<Name>` belongs to `Obligations.<Name>`. -/

/-- A window of 28 bytes: the longest that PUSH leaves in Filling. -/
def partial28 (inputs : List Stim) : State :=
  stateWith .filling (cleanBytes.take 28) inputs

/-- A window of 29 bytes: PUSH makes it full. -/
def partial29 (inputs : List Stim) : State :=
  stateWith .filling (cleanBytes.take 29) inputs

/-- A full window with verdict Good. -/
def fullGood (inputs : List Stim) : State :=
  stateWith .checking cleanWindow.toList inputs

/-- A full window with verdict WrongChecksum. -/
def fullBadChecksum (inputs : List Stim) : State :=
  stateWith .checking badChecksumWindow.toList inputs

/-- A full window with verdict NoSync. -/
def fullNoSync (inputs : List Stim) : State :=
  stateWith .checking zeroWindow.toList inputs

/-- Two clean frames, one after the other. -/
def twoFrames : List Byte :=
  cleanBytes ++ cleanBytes

/-- A lost frame and a clean one. -/
def lostThenClean : List Byte :=
  zeroWindow.toList ++ cleanWindow.toList

theorem witness_ValidCodewordsAreThoseOfTheParityEquations : ValidCodeword 0xA4#8 ∧ ValidCodeword 0xA5#8 := by decide

theorem witness_DecodeIsRightExactlyUpToOneCheckedFlip :
    ValidCodeword 0xA5#8 ∧ extr 0xA5#8 = 0xA#4 ∧ checkedFlips 0x01#8 = 0 ∧ checkedFlips 0x80#8 = 1 ∧
    checkedFlips 0x82#8 = 2 := by
  decide

theorem witness_EveryByteIsNearExactlyOneCodeword :
    ValidCodeword 0x32#8 ∧ checkedFlips 0x06#8 = 2 ∧ checkedFlips 0xFE#8 = 7 ∧ checkedFlips (0x72#8 ^^^ cw 2#4) = 1 := by
  decide

theorem witness_AsmLanesAreIndependent :
    (∃ i : Fin 30, i.val = 0 ∧ i.val % 2 = 0) ∧ (∃ i : Fin 30, i.val = 29 ∧ i.val % 2 = 1) ∧
    (∃ (i : Fin 30) (j : Fin 15), i.val = 29 ∧ j.val = 13 ∧ j.val ≠ i.val / 2) := by
  decide

theorem witness_AsmMasksOneFlipPerCodeword :
    (∀ i : Fin 30, ValidCodeword (windowOf mixedBytes)[i.val] ∧
      checkedFlips ((windowOf flippedBytes)[i.val] ^^^ (windowOf mixedBytes)[i.val]) ≤ 1 ∧
      checkedFlips ((windowOf mixedBytes)[i.val] ^^^ (windowOf mixedBytes)[i.val]) ≤ 1) ∧
    ValidCodeword 0x32#8 ∧ 2 ≤ checkedFlips (0x34#8 ^^^ 0x32#8) := by
  decide

theorem witness_ValidatorProperties :
    (flatFrame 0xAA#8 0xAB#8 0x12#8 0x55#8)[0] ≠ (flatFrame 0xAA#8 0xAB#8 0x12#8 0x55#8)[1] ∧
    (flatFrame 0x55#8 0x55#8 0x00#8 0x00#8)[0] ≠ 0xAA#8 ∧ (flatFrame 0x55#8 0x55#8 0x00#8 0x00#8)[1] ≠ 0xAA#8 ∧
    (flatFrame 0xAA#8 0xAA#8 0x12#8 0x01#8)[0] = 0xAA#8 ∧ (flatFrame 0xAA#8 0xAA#8 0x12#8 0x01#8)[1] = 0xAA#8 ∧
    (flatFrame 0xAA#8 0xAA#8 0x12#8 0x01#8)[14] ≠
      xorAll (payloadOf (flatFrame 0xAA#8 0xAA#8 0x12#8 0x01#8)).toList := by
  decide

theorem witness_WrongOperandLengthIsRejected :
    (List.replicate 29 0#8).length ≠ 30 ∧ (List.replicate 31 0#8).length ≠ 30 ∧ (List.replicate 14 0#8).length ≠ 15 ∧
    (List.replicate 16 0#8).length ≠ 15 ∧ ([] : List Byte).length ≠ 1 ∧ [0#8, 0#8].length ≠ 1 := by
  decide

theorem witness_ResetEmptiesTheWindow :
    (fullGood [.event .reset]).pins.rst = true ∧ (partial28 [.cycle ⟨true, true, false, 0xA4#8⟩]).pins.rst = true := by
  decide

theorem witness_PushAppendsTheByte :
    State.reset.st = .filling ∧ State.reset.window.length = 0 ∧ (partial28 []).st = .filling ∧ (partial28 []).window.length + 1 = 29 ∧
    (partial29 []).st = .filling ∧ (partial29 []).window.length + 1 = 30 := by
  decide

theorem witness_GoodCheckEmitsAndClears : ∃ (s : State) (w : Codewords),
    s.st = .checking ∧ s.window = w.toList ∧ val (asm w) = .good :=
  ⟨fullGood [], cleanWindow, rfl, rfl, by decide⟩

theorem witness_FailingCheckSlidesByOne :
    (∃ (s : State) (w : Codewords), s.st = .checking ∧ s.window = w.toList ∧ val (asm w) = .noSync) ∧
    (∃ (s : State) (w : Codewords), s.st = .checking ∧ s.window = w.toList ∧ val (asm w) = .wrongChecksum) :=
  ⟨⟨fullNoSync [], zeroWindow, rfl, rfl, by decide⟩, ⟨fullBadChecksum [], badChecksumWindow, rfl, rfl, by decide⟩⟩

theorem witness_CheckMakesOneVerdictOnEveryFullWindow :
    (fullGood []).st = .checking ∧ (fullGood []).window.length = 30 ∧ (fullNoSync []).window.length = 30 := by
  decide

theorem witness_EosDiscardsThePartialWindow :
    State.reset.st = .filling ∧ (partial29 []).st = .filling ∧ (partial29 []).window.length = 29 := by
  decide

theorem witness_IdleChangesNothing : State.reset.st = .filling ∧ (partial29 []).st = .filling := by decide

theorem witness_OperationsStopWhereNotEnabled :
    (fullGood []).st = .checking ∧ (partial29 []).st = .filling ∧
    (stateWith .checking (cleanBytes.take 29) []).st = .checking ∧
    (stateWith .checking (cleanBytes.take 29) []).window.length ≠ 30 ∧
    (stateWith .checking (cleanBytes ++ [0#8]) []).window.length ≠ 30 := by
  decide

theorem witness_FunctionRowsReadAndWriteNoState :
    (Instr.synd 0#8).wellFormed = false ∧ (Instr.val (flatFrame 0 0 0 0)).wellFormed = false := by
  decide

theorem witness_CheckUsesTheDatapathFunctions : ∃ (s : State) (w : Codewords),
    s.st = .checking ∧ s.window = w.toList :=
  ⟨fullGood [], cleanWindow, rfl, rfl⟩

/-- One state for each of the five clauses. -/
theorem witness_StepPerformsTheSelectedOperation :
    (fullGood [.event .reset]).pins.rst = true ∧
    ((fullGood [.event .nothing]).pins.rst = false ∧ (fullGood [.event .nothing]).st = .checking) ∧
    ((partial28 [.event (.byte 1#8)]).pins = ⟨false, true, false, 1#8⟩ ∧ (partial28 [.event (.byte 1#8)]).st = .filling) ∧
    ((partial28 [.event .endOfStream]).pins.inValid = true ∧ (partial28 [.event .endOfStream]).pins.inEos = true) ∧
    ((partial28 []).pins.rst = false ∧ (partial28 []).pins.inValid = false) := by
  decide

theorem witness_EdgeUsesUpItsItem :
    (∃ (s : State) (p : Pins) (rest : List Stim), s.inputs = .cycle p :: rest) ∧
    (∃ (s : State) (e : Event) (rest : List Stim), s.inputs = .event e :: rest ∧ s.st = .checking ∧ e ≠ .reset) ∧
    (∃ (s : State) (e : Event) (rest : List Stim), s.inputs = .event e :: rest ∧ s.st = .checking ∧ e = .reset) ∧
    State.reset.inputs = [] :=
  ⟨⟨partial28 [.cycle Pins.idle], Pins.idle, [], rfl⟩, ⟨fullGood [.event .nothing], .nothing, [], rfl, rfl, by decide⟩,
    ⟨fullGood [.event .reset], .reset, [], rfl, rfl, rfl⟩, rfl⟩

/-- Every row of the table: the four events in Filling, with 28 and 29 bytes, and each verdict in Checking. -/
theorem witness_StepFollowsTheTransitionTable :
    (partial28 [.event (.byte 0#8)]).Inv ∧ (partial29 [.event (.byte 0#8)]).Inv ∧
    (partial29 [.event .endOfStream]).Inv ∧ (partial29 [.event .nothing]).Inv ∧ (partial29 [.event .reset]).Inv ∧
    (fullGood [.event .nothing]).Inv ∧ (fullBadChecksum [.event .nothing]).Inv ∧ (fullNoSync [.event .reset]).Inv := by
  decide

/-- The last clause in both directions: a word with bit 10 set in Checking, and one without in Filling. -/
theorem witness_PlacedWordIsTheNextOperation :
    (fullGood []).Inv ∧ (fullGood []).st = .checking ∧ oswSt 0x400#12 = true ∧
    (partial29 []).Inv ∧ (partial29 []).st ≠ .checking ∧ oswSt 0x2A4#12 = false := by
  decide

/-- A pair of pins for each of the four reasons. -/
theorem witness_IgnoredInputBitsHaveNoEffect :
    ((⟨true, true, false, 1#8⟩ : Pins).rst = (⟨true, false, true, 2#8⟩ : Pins).rst ∧
      (⟨true, true, false, 1#8⟩ : Pins).rst = true) ∧
    ((fullGood []).st = .checking ∧ (⟨false, true, false, 1#8⟩ : Pins).rst = Pins.idle.rst) ∧
    ((⟨false, false, true, 1#8⟩ : Pins).inValid = false ∧ Pins.idle.inValid = false) ∧
    ((⟨false, true, true, 1#8⟩ : Pins).inEos = true ∧ (⟨false, true, true, 2#8⟩ : Pins).inEos = true) := by
  decide

/-- A cycle with a payload, one with a failing verdict, one with no verdict, one with a reset, and one whose inputs
can be exchanged for others with the same `rst`. -/
theorem witness_PortsCarryTheOutputOfTheStep :
    (partial29 [.event (.byte 1#8)]).pins.rst = (partial29 []).pins.rst ∧
    ((fullGood []).Inv ∧ (fullGood []).ports.evValid = true ∧ (fullGood []).ports.outValid = true) ∧
    ((fullNoSync []).Inv ∧ (fullNoSync []).ports.evValid = true ∧ (fullNoSync []).ports.outValid = false) ∧
    ((partial29 []).Inv ∧ (partial29 []).ports.evValid = false) ∧
    ((fullGood [.event .reset]).Inv ∧ (fullGood [.event .reset]).ports.evValid = false) := by
  decide

theorem witness_ResetSuppressesTheCycle :
    (fullGood [.event .reset]).pins.rst = true ∧ (partial29 [.event .reset]).pins.rst = true := by
  decide

theorem witness_OutputsAndValuesAfterReset : ∃ s t : State,
    s.pins.rst = true ∧ step s = .next t ∧ t.pins.rst = false :=
  ⟨fullGood [.event .reset], State.reset, rfl, rfl, rfl⟩

theorem witness_BeatIsTransferredExactlyAtPushAndEos :
    (fullGood [.event (.byte 0#8)]).st = .checking ∧ (partial29 [.event (.byte 0#8)]).transferred = some (.byte 0#8) ∧
    (partial29 [.event .endOfStream]).transferred = some .endOfStream := by
  decide

/-- A legal state for each of the five operations, PUSH at both sides of the 30th byte. -/
theorem witness_LengthAndStateFollowTheTable :
    ((fullGood [.event .reset]).Inv ∧ decodeOsw (fullGood [.event .reset]).osw = .reset) ∧
    ((partial28 [.event (.byte 1#8)]).Inv ∧ decodeOsw (partial28 [.event (.byte 1#8)]).osw = .push 1#8) ∧
    ((partial29 [.event (.byte 1#8)]).Inv ∧ decodeOsw (partial29 [.event (.byte 1#8)]).osw = .push 1#8) ∧
    ((partial29 [.event .endOfStream]).Inv ∧ decodeOsw (partial29 [.event .endOfStream]).osw = .eos) ∧
    ((fullNoSync []).Inv ∧ decodeOsw (fullNoSync []).osw = .check) ∧
    ((partial29 []).Inv ∧ decodeOsw (partial29 []).osw = .idle) := by
  decide

theorem witness_EveryOperationKeepsTheStateInvariant :
    (∃ t : State, (fullNoSync []).Inv ∧ exec .check (fullNoSync []) = .next t) ∧
    (∃ t : State, (partial29 [.event (.byte 0#8)]).Inv ∧ step (partial29 [.event (.byte 0#8)]) = .next t) :=
  ⟨⟨_, by decide, rfl⟩, ⟨_, by decide, rfl⟩⟩

/-- The empty window, 29 bytes and 30 bytes; and a run from the reset state that answers a next state. -/
theorem witness_ReachableStatesAreTheLegalOnes :
    (State.reset.Inv ∧ State.reset.window.length = 0 ∧ (partial29 []).Inv ∧ (fullGood []).Inv) ∧
    ∃ t : State, Sys2Proof.core.run 1 { State.reset with inputs := [.event (.byte 0#8)] } = .next t :=
  ⟨by decide, ⟨_, rfl⟩⟩

theorem witness_PayloadsAndGoodEventsAgree : ∃ t : State, (partial29 []).EventsAgree ∧ step (partial29 []) = .next t :=
  ⟨_, by decide, rfl⟩

theorem witness_NoRunFromALegalStateStops :
    State.reset.Inv ∧ (fullGood [.cycle ⟨false, true, true, 0#8⟩]).Inv ∧ (partial29 [.event .endOfStream]).Inv := by
  decide

theorem witness_CheckingLastsOneStepAndFillingTakesEveryEvent :
    ((fullGood [.event (.byte 0#8)]).Inv ∧ (fullGood [.event (.byte 0#8)]).st = .checking) ∧
    ((partial29 [.event (.byte 0#8)]).Inv ∧ (partial29 [.event (.byte 0#8)]).st = .filling ∧
      (partial29 [.event (.byte 0#8)]).pins.rst = false ∧ (partial29 [.event (.byte 0#8)]).inputs = [.event (.byte 0#8)]) := by
  decide

/-- Two states that differ in all that was emitted before. -/
theorem witness_HistoryHasNoInfluence : ∃ s s' t : State,
    s.window = s'.window ∧ s.st = s'.st ∧ s.inputs = s'.inputs ∧ step s = .next t ∧ s.observer ≠ s'.observer ∧
    s.out ≠ s'.out :=
  ⟨partial29 [], { partial29 [] with observer := [.noSync], out := ⟨some .noSync, none⟩ }, _, rfl, rfl, rfl, rfl,
    by decide, by decide⟩

theorem witness_EventsAreDeliveredOnceAndInOrder : ∃ t : State, step (partial29 [.event (.byte 0#8)]) = .next t :=
  ⟨_, rfl⟩

/-- With 28 and with 29 bytes, and with something after the byte. -/
theorem witness_PushThenCheckIsTheFusedStep :
    ((partial28 [.event (.byte 0#8)]).st = .filling ∧ (partial28 [.event (.byte 0#8)]).window.length ≤ 29 ∧
      (partial28 [.event (.byte 0#8)]).inputs = (.byte 0#8 :: []).map Stim.event) ∧
    ((partial29 [.event (.byte 0#8), .event .nothing]).window.length = 29 ∧ Event.reset ∉ [Event.nothing] ∧
      (partial29 [.event (.byte 0#8), .event .nothing]).inputs = (.byte 0#8 :: [.nothing]).map Stim.event) := by
  decide

theorem witness_StreamRunsAsTheLoop : ∃ (s : State) (after : List Stim), s.st = .filling ∧ s.window = [] ∧
    s.inputs = twoFrames.map (fun b => Stim.event (.byte b)) ++ .event .endOfStream :: after :=
  ⟨stateWith .filling [] (twoFrames.map (fun b => Stim.event (.byte b)) ++ [.event .endOfStream]), [], rfl, rfl, rfl⟩

theorem witness_EveryByteOfAStreamIsAccountedFor : (cleanBytes.take 29).length < 30 := by decide

/-- Two Good attempts in a row, two failing ones in a row, and an offset that a Good attempt swallows. -/
theorem witness_OffsetIsTriedUnlessAGoodAttemptSwallowsIt :
    (attempts twoFrames).map (fun a => (a.offset, a.verdict)) = [(0, .good), (30, .good)] ∧
    (attempts (List.replicate 31 0#8)).map (fun a => (a.offset, a.verdict)) = [(0, .noSync), (1, .noSync)] ∧
    (∃ a ∈ attempts twoFrames, a.verdict = .good ∧ a.offset < 29 ∧ 29 < a.offset + 30) := by
  decide

theorem witness_LostFrameCostsThirtyAttempts :
    lostThenClean.length = 60 ∧ lostThenClean.drop 30 = cleanWindow.toList ∧ val (asm cleanWindow) = .good ∧
    ∀ (o : Nat) (x : Codewords), o < 30 → (lostThenClean.drop o).take 30 = x.toList → val (asm x) ≠ .good := by
  refine ⟨by decide, by decide, by decide, fun o x ho hx hgood => ?_⟩
  have hzero : ∀ o < 30, ((lostThenClean.drop o).take 30)[0]? = some 0#8 := by decide
  have hx0 : x[0] = 0#8 := by
    have h := hzero o ho
    rw [hx] at h
    simpa using h
  have hsync : (asm x)[0] = Config.sync := not_not.1 (not_or.1 (val_eq_good.1 hgood).1).2
  rw [getElem_asm x 0 (by decide), hx0] at hsync
  have hhigh := packNibbles_high (decn 0#8) (decn x[2 * 0 + 1])
  rw [hsync] at hhigh
  exact absurd hhigh (by decide)

theorem witness_PushOnAnUnreachableWindowAppends :
    (stateWith .filling cleanBytes []).st = .filling ∧ (stateWith .filling cleanBytes []).window.length = 30 := by
  decide

/-- A reset right after the byte that fills the window, and the empty script. -/
theorem witness_ScriptRunsOnTheUntimedMachine :
    ((partial29 (scriptInputs [.b 0x00#8, .rst])).st = .filling ∧
      (partial29 (scriptInputs [.b 0x00#8, .rst])).window.length ≤ 29 ∧
      (partial29 (scriptInputs [.b 0x00#8, .rst])).inputs = scriptInputs [.b 0x00#8, .rst]) ∧
    (State.reset.st = .filling ∧ State.reset.window.length ≤ 29 ∧ State.reset.inputs = scriptInputs []) := by
  decide

/-- The damage of A6: one flip in every codeword. -/
theorem witness_SentPayloadIsEmittedDespiteOneFlipPerCodeword :
    (∃ (s : State) (w : Codewords), s.st = .checking ∧ s.window = w.toList ∧ w = windowOf flippedBytes) ∧
    ∀ i : Fin 30, checkedFlips ((windowOf flippedBytes)[i.val] ^^^
      (codewordsOf (frameOf (payloadOf (frameOfBytes mixedFrameBytes))))[i.val]) = 1 :=
  ⟨⟨stateWith .checking (windowOf flippedBytes).toList [], _, rfl, rfl, rfl⟩, by decide⟩

end Sys2Proof.Tests
end

section
/-! PROOFS. The family of spec/10_state.md: the state invariant (R23), how the operations move the window and `st`
(R24), and the reachable states (R32). -/

namespace Sys2Proof.Machine

variable {s t : State}

/-! ### What each operation answers, where it is enabled and where it is not -/

theorem requireSt_of_ne {q : SyncState} (h : s.st ≠ q) (r : Result) : s.requireSt q r = .refused .notEnabled :=
  if_neg h

theorem exec_reset (s : State) :
    exec .reset s = .next { s with window := [], st := .filling, out := .silent } := rfl

/-- PUSH answers in Filling alone (R138). -/
theorem exec_push_eq_next {b : Byte} : exec (.push b) s = .next t ↔ s.st = .filling ∧ t = { s with
    window := s.window ++ [b]
    st := if s.window.length + 1 = 30 then .checking else .filling
    out := .silent } := by
  refine requireSt_eq_next.trans (and_congr_right fun _ => ?_)
  rw [Host.Outcome.next.injEq, eq_comm, State.winAppend_window, List.length_append, List.length_singleton]
  rfl

/-- EOS answers in Filling alone (R146). -/
theorem exec_eos_eq_next : exec .eos s = .next t ↔
    s.st = .filling ∧ t = { s with window := [], st := .filling, out := .silent } := by
  refine requireSt_eq_next.trans (and_congr_right fun _ => ?_)
  rw [Host.Outcome.next.injEq, eq_comm]
  rfl

/-- IDLE answers in Filling alone (R148). -/
theorem exec_idle_eq_next : exec .idle s = .next t ↔ s.st = .filling ∧ t = { s with out := .silent } := by
  refine requireSt_eq_next.trans (and_congr_right fun _ => ?_)
  rw [Host.Outcome.next.injEq, eq_comm]
  rfl

/-- CHECK answers in Checking alone, on a full window alone, by the end of the attempt on its frame (R140). -/
theorem exec_check_eq_next : exec .check s = .next t ↔
    s.st = .checking ∧ ∃ w : Codewords, s.window = w.toList ∧ t = s.conclude (asm w) := by
  refine requireSt_eq_next.trans (and_congr_right fun _ => ?_)
  rcases hw : fullWindow s.window with _ | w
  · refine iff_of_false (fun e => nomatch e) ?_
    rintro ⟨w, hs, -⟩
    rw [hs, fullWindow_toList] at hw
    exact nomatch hw
  · have hs := fullWindow_eq_some.1 hw
    constructor
    · intro e
      exact ⟨w, hs, (Host.Outcome.next.inj e).symm⟩
    · rintro ⟨w', hs', e⟩
      rw [e, Vector.toList_inj.1 (hs.symm.trans hs')]

/-- CHECK in Checking on a window that is not full breaks the assembler's contract (R111, R172). -/
theorem exec_check_of_not_full (hc : s.st = .checking) (hw : s.window.length ≠ 30) :
    exec .check s = .fault .assemblerContract := by
  change s.requireSt .checking _ = _
  rw [State.requireSt, if_pos hc, fullWindow_eq_none.2 hw]

/-- The window after an attempt (R141, R143). -/
theorem conclude_window (s : State) (f : Frame) :
    (s.conclude f).window = if val f = .good then [] else s.window.tail := by
  split
  next h => rw [conclude_good h]
  next h => rw [conclude_failing h]

/-! ### The state invariant (R23) -/

/-- In a legal state that is not full, `st` is Filling. -/
theorem State.Inv.filling_of_lt (hs : s.Inv) (h : s.window.length < 30) : s.st = .filling :=
  filling_of_ne_checking fun hc => h.ne (hs.2.1 hc)

/-- In a legal state in Filling the window has at most 29 bytes. -/
theorem State.Inv.length_lt_of_filling (hs : s.Inv) (h : s.st = .filling) : s.window.length < 30 :=
  lt_of_le_of_ne hs.1 fun hl => nomatch h.symm.trans (hs.2.2 hl)

/-- In legal states the window's length decides `st`. -/
theorem State.Inv.st_eq_of_length_eq (hs : s.Inv) (ht : t.Inv) (h : t.window.length = s.window.length) :
    t.st = s.st := by
  by_cases hl : s.window.length = 30
  · rw [hs.2.2 hl, ht.2.2 (h.trans hl)]
  · have hlt : s.window.length < 30 := lt_of_le_of_ne hs.1 hl
    rw [hs.filling_of_lt hlt, ht.filling_of_lt (h.trans_lt hlt)]

/-- A state in Filling with at most 29 bytes is legal. -/
theorem inv_of_filling (hst : s.st = .filling) (hl : s.window.length < 30) : s.Inv :=
  ⟨hl.le, iff_of_false (fun hc => nomatch hst.symm.trans hc) hl.ne⟩

theorem reset_inv : State.reset.Inv :=
  inv_of_filling rfl (by decide)

theorem State.Inv.takeInput (hs : s.Inv) : s.takeInput.Inv := by
  simpa [State.Inv] using hs

/-- The byte that PUSH appends is at most the 30th, and only the 30th makes the state Checking (R138). -/
theorem State.Inv.push (hs : s.Inv) (hst : s.st = .filling) (b : Byte) (o : Output) :
    ({ s with
      window := s.window ++ [b]
      st := if s.window.length + 1 = 30 then .checking else .filling
      out := o } : State).Inv := by
  have hlt := hs.length_lt_of_filling hst
  refine ⟨?_, ?_⟩
  · rw [List.length_append, List.length_singleton]
    exact hlt
  · rw [List.length_append, List.length_singleton]
    split <;> simp [*]

/-- An attempt on a full window ends in Filling with 0 or 29 bytes (R141, R143). -/
theorem conclude_inv (hl : s.window.length = 30) (f : Frame) : (s.conclude f).Inv := by
  refine inv_of_filling (conclude_st s f) ?_
  rw [conclude_window]
  split
  · exact Nat.zero_lt_succ _
  · rw [List.length_tail, hl]
    decide

/-- Every row of the table keeps the invariant (R23). -/
theorem exec_preserves_inv {i : Instr} (hs : s.Inv) (h : exec i s = .next t) : t.Inv := by
  rcases exec_cases h with ⟨-, ht⟩ | ⟨b, -, hst, ht⟩ | ⟨w, f, -, -, hw, -, ht⟩ | ⟨-, -, ht⟩ | ⟨-, v, ht⟩
  · rw [ht]
    exact inv_of_filling rfl (Nat.zero_lt_succ _)
  · rw [ht]
    exact hs.push hst b .silent
  · rw [ht]
    exact conclude_inv (by rw [hw, Vector.length_toList]) f
  · rw [ht]
    exact hs
  · rw [ht]
    exact hs

/-- Every step keeps the invariant: it is one row of the table, after an input was used up. -/
theorem step_preserves_inv (hs : s.Inv) (h : step s = .next t) : t.Inv :=
  exec_preserves_inv hs.takeInput h

/-- Settles O43: the invariant holds at reset, every row keeps it by `exec_cases`, and a step is a row. -/
theorem everyOperationKeepsTheStateInvariant : Obligations.EveryOperationKeepsTheStateInvariant :=
  ⟨reset_inv, fun _ _ _ => exec_preserves_inv, fun _ _ => step_preserves_inv⟩

/-! ### Progress, and the effect of each operation on the length and `st` (R24) -/

/-- On a legal state the operation that the edge selects is enabled, so the step completes. -/
theorem State.Inv.exists_step (hs : s.Inv) : ∃ t, step s = .next t := by
  rw [step, decodeOsw_osw]
  by_cases hr : s.pins.rst = true
  · rw [if_pos hr]
    exact ⟨_, exec_reset _⟩
  rw [if_neg hr]
  by_cases hc : s.st = .checking
  · obtain ⟨w, hw⟩ := exists_codewords_of_length (hs.2.1 hc)
    rw [if_pos hc]
    exact ⟨_, exec_check_eq_next.2 ⟨(takeInput_st s).trans hc, w, (takeInput_window s).trans hw, rfl⟩⟩
  have hf : s.takeInput.st = .filling := (takeInput_st s).trans (filling_of_ne_checking hc)
  rw [if_neg hc]
  split
  · exact ⟨_, exec_idle_eq_next.2 ⟨hf, rfl⟩⟩
  · split
    · exact ⟨_, exec_eos_eq_next.2 ⟨hf, rfl⟩⟩
    · exact ⟨_, exec_push_eq_next.2 ⟨hf, rfl⟩⟩

/-- An attempt leaves no byte after a Good verdict and 29 after a failing one (R24). -/
theorem conclude_window_length (hl : s.window.length = 30) (f : Frame) :
    (s.conclude f).window.length = if (s.conclude f).out.verdict = some .good then 0 else 29 := by
  obtain ⟨hv, -⟩ := conclude_delivers s f
  simp only [hv, conclude_window, Option.some.injEq]
  split
  · rfl
  · rw [List.length_tail, hl]

/-- Settles O42: the step completes by `State.Inv.exists_step`, and what it did is read off the operation's own
rule. -/
theorem lengthAndStateFollowTheTable : Obligations.LengthAndStateFollowTheTable := by
  intro s hs
  obtain ⟨t, ht⟩ := hs.exists_step
  have hx : exec (decodeOsw s.osw) s.takeInput = .next t := ht
  refine ⟨t, ht, fun hd => ?reset, fun b hd => ?push, fun hd => ?eos, fun hd => ?check, fun hd => ?idle⟩ <;>
    rw [hd] at hx
  case reset =>
    rw [← Host.Outcome.next.inj hx]
    exact ⟨rfl, rfl⟩
  case push =>
    obtain ⟨hst, rfl⟩ := exec_push_eq_next.1 hx
    rw [takeInput_st] at hst
    have hlt := hs.length_lt_of_filling hst
    exact ⟨hst, by omega, by simp, by simp⟩
  case eos =>
    obtain ⟨hst, rfl⟩ := exec_eos_eq_next.1 hx
    exact ⟨by simpa using hst, rfl, rfl⟩
  case check =>
    obtain ⟨hst, w, hw, ht⟩ := exec_check_eq_next.1 hx
    rw [takeInput_st] at hst
    have hl := hs.2.1 hst
    rw [ht]
    exact ⟨hst, hl, conclude_st _ _, conclude_window_length (by simpa using hl) _⟩
  case idle =>
    obtain ⟨hst, rfl⟩ := exec_idle_eq_next.1 hx
    rw [takeInput_st] at hst
    exact ⟨hst, by simpa using hst, by simp⟩

/-! ### Runs and the reachable states (R32) -/

/-- A run of one step more answers when its first step and the rest of it do. -/
theorem run_succ_eq_next {M : Host.Core} {k : Nat} {s t : M.State} :
    M.run (k + 1) s = .next t ↔ ∃ u, M.step s = .next u ∧ M.run k u = .next t := by
  constructor
  · intro h
    simp only [Host.Core.run] at h
    split at h
    next u hu => exact ⟨u, hu, h⟩
    next => exact nomatch h
    next => exact nomatch h
  · rintro ⟨u, hu, h⟩
    exact (run_succ M k hu).trans h

/-- `run_succ_eq_next` in the model's own names. -/
theorem core_run_succ_eq_next {k : Nat} :
    Sys2Proof.core.run (k + 1) s = .next t ↔ ∃ u, step s = .next u ∧ Sys2Proof.core.run k u = .next t :=
  run_succ_eq_next

/-- What every step keeps, every run keeps. -/
theorem core_run_preserves {P : State → Prop} (hP : ∀ s t, P s → step s = .next t → P t) {k : Nat} (hs : P s)
    (h : Sys2Proof.core.run k s = .next t) : P t := by
  induction k generalizing s with
  | zero => exact Host.Outcome.next.inj h ▸ hs
  | succ k ih =>
    obtain ⟨u, hu, hk⟩ := core_run_succ_eq_next.1 h
    exact ih (hP s u hs hu) hk

/-- In Filling an offered event is used up by the edge (R137). -/
theorem takeInput_of_event {e : Event} {rest : List Stim} (hst : s.st = .filling)
    (hin : s.inputs = .event e :: rest) : s.takeInput = { s with inputs := rest } := by
  simp [State.takeInput, State.takes, hin, hst]

/-- An offered byte is pushed by the next edge in Filling (R137, R138). -/
theorem step_of_byte {b : Byte} {rest : List Stim} (hst : s.st = .filling)
    (hin : s.inputs = .event (.byte b) :: rest) : step s = .next { s with
      window := s.window ++ [b]
      st := if s.window.length + 1 = 30 then .checking else .filling
      inputs := rest
      out := .silent } := by
  have hp : s.pins = ⟨false, true, false, b⟩ := by
    rw [State.pins, hin]
    rfl
  have hd : decodeOsw s.osw = .push b := by simp [decodeOsw_osw, hp, hst]
  rw [step, hd, takeInput_of_event hst hin]
  exact exec_push_eq_next.2 ⟨hst, rfl⟩

/-- Offered bytes that fit in the window are appended to it, one step each. -/
theorem core_run_bytes (l : List Byte) (rest : List Stim) (hs : s.Inv) (hl : s.window.length + l.length ≤ 30)
    (hin : s.inputs = (l.map fun b => .event (.byte b)) ++ rest) :
    ∃ t, Sys2Proof.core.run l.length s = .next t ∧ t.window = s.window ++ l ∧ t.inputs = rest := by
  induction l generalizing s with
  | nil => exact ⟨s, core_run_zero s, (List.append_nil _).symm, hin⟩
  | cons b l ih =>
    rw [List.length_cons] at hl
    have hstep := step_of_byte (hs.filling_of_lt (by omega)) hin
    obtain ⟨t, hrun, hw, hi⟩ := ih (step_preserves_inv hs hstep) (by simp; omega) rfl
    exact ⟨t, (core_run_succ _ hstep).trans hrun, by simpa using hw, hi⟩

/-- Settles O44: every run keeps the invariant, and the PUSHes of a legal window's bytes build it; `st` is then the
one the length decides. -/
theorem reachableStatesAreTheLegalOnes : Obligations.ReachableStatesAreTheLegalOnes := by
  have hrun : ∀ (k : Nat) (inputs : List Stim) (t : State),
      Sys2Proof.core.run k { State.reset with inputs := inputs } = .next t → t.Inv := fun _ _ _ =>
    core_run_preserves (fun _ _ => step_preserves_inv) reset_inv
  refine ⟨hrun, fun s hs => ?_⟩
  obtain ⟨t, ht, hw, hi⟩ := core_run_bytes
    (s := { State.reset with inputs := s.window.map fun b => .event (.byte b) }) s.window [] reset_inv
    (by simpa [State.reset] using hs.1) (List.append_nil _).symm
  have hwin : t.window = s.window := hw
  exact ⟨t, ht, hwin, hs.st_eq_of_length_eq (hrun _ _ t ht) (congrArg List.length hwin), hi⟩

/-! ### Where an operation is not enabled, and the reset state -/

/-- Settles O29: each operation's "requires" line fails (R24), and a window that is not full has no frame (R172). -/
theorem operationsStopWhereNotEnabled : Obligations.OperationsStopWhereNotEnabled := by
  intro s b
  refine ⟨fun hc => ?_, fun hf => ?_, exec_check_of_not_full⟩
  · have hne : s.st ≠ .filling := by simp [hc]
    exact ⟨requireSt_of_ne hne _, requireSt_of_ne hne _, requireSt_of_ne hne _⟩
  · exact requireSt_of_ne (by simp [hf]) _

/-- With nothing presented and nothing delivered, the output, the observer and the sink agree (R51). -/
theorem reset_eventsAgree : State.reset.EventsAgree := by
  decide

/-- Settles O45. -/
theorem resetStateIsLegal : Obligations.ResetStateIsLegal :=
  ⟨reset_inv, reset_eventsAgree⟩

end Sys2Proof.Machine
end

section
/-! PROOFS. The family of spec/20_memory.md: what a step delivers to the observer and the sink (R49 to R51), and the
order of the payload's bytes on the bus (R44, R68). -/

namespace Sys2Proof.Machine

variable {s t : State}

/-! ### The payload bus (R44, R68) -/

/-- Lane `k` of the bus is payload byte `k`: the lanes below it are skipped one by one, and it is then the lowest. -/
theorem extractLsb'_payloadBus (p : Payload) (k : Fin 12) : (payloadBus p).extractLsb' (8 * k.val) 8 = p[k.val] := by
  unfold payloadBus
  fin_cases k <;> repeat rw [BitVec.extractLsb'_append_eq_of_le (by decide)]
  -- lanes 0 to 10 have a byte above them, lane 11 is the top one
  iterate 11 exact BitVec.extractLsb'_append_eq_right
  exact BitVec.extractLsb'_eq_self

/-- Settles O38: the payload is the frame from byte 2 on, and the bus has a lane for each of its bytes. -/
theorem payloadByteOrderOnTheBus : Obligations.PayloadByteOrderOnTheBus := by
  intro f k
  have hk : (payloadOf f)[k.val] = f[2 + k.val] := getElem_payloadOf f k.val k.isLt
  exact ⟨hk, (extractLsb'_payloadBus _ k).trans hk⟩

/-! ### What a step delivers (R49 to R51) -/

/-- A step either ends an attempt, on the state after the edge's input was used up, or presents and delivers nothing;
RESET, EOS, PUSH and IDLE do the latter. -/
theorem step_concludes_or_silent (h : step s = .next t) :
    (∃ f, t = s.takeInput.conclude f) ∨
    (t.out = .silent ∧ t.observer = s.observer ∧ t.sink = s.sink ∧ t.probe = s.probe ∧
      t.inputs = s.takeInput.inputs) := by
  rcases step_cases h with ⟨-, ht⟩ | ⟨-, -, -, -, ht⟩ | ⟨-, -, -, -, ht⟩ | ⟨-, f, -, -, -, -, ht⟩ | ⟨-, -, -, ht⟩
  case inr.inr.inr.inl => exact .inl ⟨f, ht⟩
  all_goals exact .inr (by simp [ht])

/-- The observer receives the verdict that the step presents, and nothing else. -/
theorem step_observer (h : step s = .next t) : t.observer = s.observer ++ t.out.verdict.toList := by
  rcases step_concludes_or_silent h with ⟨f, ht⟩ | ⟨hout, hobs, -⟩
  · obtain ⟨hv, hobs, -⟩ := conclude_delivers s.takeInput f
    rw [ht, hv, hobs, takeInput_observer, Option.toList_some]
  · rw [hout, hobs, Option.toList_none, List.append_nil]

/-- The sink receives the payload that the step presents, and nothing else. -/
theorem step_sink (h : step s = .next t) : t.sink = s.sink ++ t.out.payload.toList := by
  rcases step_concludes_or_silent h with ⟨f, ht⟩ | ⟨hout, -, hsink, -⟩
  · obtain ⟨-, -, hsink, -⟩ := conclude_delivers s.takeInput f
    rw [ht, hsink, takeInput_sink]
  · rw [hout, hsink, Option.toList_none, List.append_nil]

/-- The step presents a payload exactly when its verdict is Good (R137). -/
theorem step_payload_iff_good (h : step s = .next t) :
    t.out.payload.isSome = true ↔ t.out.verdict = some .good := by
  rcases step_concludes_or_silent h with ⟨f, ht⟩ | ⟨hout, -⟩
  · obtain ⟨hv, -, -, hp⟩ := conclude_delivers s.takeInput f
    rw [ht, hv, hp, Option.some.injEq]
  · simp [hout]

theorem step_probe (h : step s = .next t) : t.probe = s.probe := by
  rcases step_concludes_or_silent h with ⟨f, ht⟩ | ⟨-, -, -, hprobe, -⟩
  · rw [ht, conclude_probe, takeInput_probe]
  · exact hprobe

theorem step_inputs (h : step s = .next t) : t.inputs = s.takeInput.inputs := by
  rcases step_concludes_or_silent h with ⟨f, ht⟩ | ⟨-, -, -, -, hin⟩
  · rw [ht, conclude_inputs]
  · exact hin

/-- An edge uses up the item at the head of the environment, or none. -/
theorem takeInput_inputs (s : State) : s.inputs = s.takeInput.inputs ∨ s.inputs.tail = s.takeInput.inputs := by
  unfold State.takeInput
  split
  next => exact .inl rfl
  next x rest hin =>
    split
    · exact .inr (congrArg List.tail hin)
    · exact .inl rfl

/-- Settles O50: the step's own rules for the observer, the sink, `probe` and the environment. -/
theorem eventsAreDeliveredOnceAndInOrder : Obligations.EventsAreDeliveredOnceAndInOrder := by
  intro s t h
  refine ⟨step_observer h, step_sink h, step_probe h, ?_⟩
  rw [step_inputs h]
  exact takeInput_inputs s

/-- An output with a payload exactly when its verdict is Good counts the same on both sides. -/
theorem count_good_verdict_eq_length_payload {o : Output} (h : o.payload.isSome = true ↔ o.verdict = some .good) :
    o.verdict.toList.count .good = o.payload.toList.length := by
  by_cases hg : o.verdict = some .good
  · obtain ⟨p, hp⟩ := Option.isSome_iff_exists.1 (h.2 hg)
    rw [hg, hp]
    rfl
  · have hp : o.payload = none := Option.not_isSome_iff_eq_none.1 (mt h.1 hg)
    rw [hp, Option.toList_none, List.length_nil, List.count_eq_zero, Option.mem_toList]
    exact hg

/-- Settles O46: what the step delivers adds one Good event and one payload to the counts, or neither (R51). -/
theorem payloadsAndGoodEventsAgree : Obligations.PayloadsAndGoodEventsAgree := by
  rintro s t ⟨-, hcount⟩ h
  have hout := step_payload_iff_good h
  refine ⟨hout, ?_⟩
  rw [step_observer h, step_sink h, List.count_append, List.length_append, hcount,
    count_good_verdict_eq_length_payload hout]

end Sys2Proof.Machine
end

section
/-! PROOFS. The family of spec/30_encoding.md: the operation map and its words (R78, R79), the function rows (R80),
ignored input bits (R81), scripts (R83, R84), and the beat that an edge transfers (R71). -/

namespace Sys2Proof

/-! ### Operation-select words and their fields (R78) -/

/-- Bits 11 to 8 of an operation-select word. -/
def controlBits (rst st inValid inEos : Bool) : BitVec 4 :=
  BitVec.ofBool rst ++ BitVec.ofBool st ++ BitVec.ofBool inValid ++ BitVec.ofBool inEos

theorem packOsw_eq_append (rst st inValid inEos : Bool) (inData : Byte) :
    packOsw rst st inValid inEos inData = controlBits rst st inValid inEos ++ inData := rfl

/-- A mask acts on the control bits and on `in_data` apart. -/
theorem packOsw_and_append (rst st inValid inEos : Bool) (inData : Byte) (m : BitVec 4) (n : Byte) :
    packOsw rst st inValid inEos inData &&& (m ++ n) = (controlBits rst st inValid inEos &&& m) ++ (inData &&& n) :=
  BitVec.and_append

theorem controlBits_getLsbD (x : BitVec 4) :
    controlBits (x.getLsbD 3) (x.getLsbD 2) (x.getLsbD 1) (x.getLsbD 0) = x := by
  revert x
  decide

/-- A word is made of its fields. -/
theorem packOsw_fields (w : Osw) :
    packOsw (oswRst w) (oswSt w) (oswInValid w) (oswInEos w) (oswInData w) = w := by
  have hbit : ∀ i < 4, w.getLsbD (8 + i) = (w.extractLsb' 8 4).getLsbD i := by
    intro i hi
    simp [hi]
  have hctl : controlBits (oswRst w) (oswSt w) (oswInValid w) (oswInEos w) = w.extractLsb' 8 4 := by
    rw [oswRst, oswSt, oswInValid, oswInEos, hbit 3 (by decide), hbit 2 (by decide), hbit 1 (by decide),
      hbit 0 (by decide), controlBits_getLsbD]
  rw [packOsw_eq_append, hctl]
  exact BitVec.extractLsb'_append_extractLsb' (w := 4)

/-- So a statement about every word is one about the fields. -/
theorem exists_eq_packOsw (w : Osw) : ∃ rst st inValid inEos inData, w = packOsw rst st inValid inEos inData :=
  ⟨_, _, _, _, _, (packOsw_fields w).symm⟩

/-! ### The operation map (R79) -/

/-- No row of the map reads `in_data`. -/
theorem matchesWord_packOsw_data {r : OpRow} (hr : r ∈ opRows) (rst st inValid inEos : Bool) (inData : Byte) :
    r.matchesWord (packOsw rst st inValid inEos inData) = r.matchesWord (packOsw rst st inValid inEos 0#8) := by
  have hmask : ∀ r ∈ opRows, ∃ m : BitVec 4, r.mask = m ++ 0#8 := by decide
  obtain ⟨m, hm⟩ := hmask r hr
  rw [OpRow.matchesWord, OpRow.matchesWord, hm, packOsw_and_append, packOsw_and_append, BitVec.and_zero,
    BitVec.and_zero]

/-- The row of the selected operation does not depend on `in_data`. -/
theorem opName_decodeOsw_packOsw_data (rst st inValid inEos : Bool) (inData : Byte) :
    (decodeOsw (packOsw rst st inValid inEos inData)).opName =
      (decodeOsw (packOsw rst st inValid inEos 0#8)).opName := by
  rw [decodeOsw_packOsw, decodeOsw_packOsw]
  repeat' split
  all_goals rfl

/-- A word matches exactly the row of the operation it selects: with `in_data` out of the way, 16 words are left. -/
theorem matchesWord_iff_opName {r : OpRow} (hr : r ∈ opRows) (w : Osw) :
    r.matchesWord w = true ↔ (decodeOsw w).opName = some r.name := by
  have hctl : ∀ rst st inValid inEos : Bool, ∀ r ∈ opRows,
      (r.matchesWord (packOsw rst st inValid inEos 0#8) = true ↔
        (decodeOsw (packOsw rst st inValid inEos 0#8)).opName = some r.name) := by decide
  obtain ⟨rst, st, inValid, inEos, inData, rfl⟩ := exists_eq_packOsw w
  rw [matchesWord_packOsw_data hr, opName_decodeOsw_packOsw_data]
  exact hctl rst st inValid inEos r hr

/-- Every selected operation has a row in the map. -/
theorem exists_opRow_of_decodeOsw (w : Osw) : ∃ r ∈ opRows, (decodeOsw w).opName = some r.name := by
  have hrow : ∀ rst st inValid inEos : Bool, ∃ r ∈ opRows,
      (decodeOsw (packOsw rst st inValid inEos 0#8)).opName = some r.name := by decide
  obtain ⟨rst, st, inValid, inEos, inData, rfl⟩ := exists_eq_packOsw w
  rw [opName_decodeOsw_packOsw_data]
  exact hrow rst st inValid inEos

/-- Settles O17: the row of the selected operation matches, and names are unique in the map. -/
theorem operationMapIsTotalAndUnambiguous : Obligations.OperationMapIsTotalAndUnambiguous := by
  intro w
  have hname : ∀ r ∈ opRows, ∀ r' ∈ opRows, r'.name = r.name → r' = r := by decide
  obtain ⟨r, hr, hop⟩ := exists_opRow_of_decodeOsw w
  refine ⟨⟨r, hr, (matchesWord_iff_opName hr w).2 hop, hop, fun r' hr' hm => ?_⟩, ?_⟩
  · have hop' := (matchesWord_iff_opName hr' w).1 hm
    exact hname r hr r' hr' (Option.some.inj (hop'.symm.trans hop))
  · simp only [decodeOsw, oswRst, oswSt, oswInValid, oswInEos, oswInData, Bool.not_eq_true',
      BitVec.setWidth_eq_extractLsb' (show 8 ≤ 12 by decide)]
    rfl

/-! ### Decode and encode -/

/-- Settles O18: an operation's word is one of `packOsw`'s, so the cascade of R79 reads it back; an operand's bytes are
those of a vector of the right length. -/
theorem decodeOfEncodeIsTheRow : Obligations.DecodeOfEncodeIsTheRow := by
  refine ⟨fun i => ?_, fun i => ?_⟩
  · cases i with
    | reset => exact congrArg Except.ok (decodeOsw_packOsw true false false false 0#8)
    | check => exact congrArg Except.ok (decodeOsw_packOsw false true false false 0#8)
    | push b => exact congrArg Except.ok (decodeOsw_packOsw false false true false b)
    | eos => exact congrArg Except.ok (decodeOsw_packOsw false false true true 0#8)
    | idle => exact congrArg Except.ok (decodeOsw_packOsw false false false false 0#8)
    | synd c | corr c | extr c | decn c => rfl
    | asm w | val f => simp [decode, encode, decodeFn]
  · cases i with
    | reset | check | push b | eos | idle => exact iff_of_true rfl ⟨_, rfl⟩
    | synd c | corr c | extr c | decn c | asm w | val f =>
      exact iff_of_false Bool.false_ne_true fun ⟨_, hw⟩ => nomatch hw

/-- A mask that keeps no bit of `in_data` leaves the control bits it keeps. -/
theorem packOsw_and_control {rst st inValid inEos : Bool} {m c : BitVec 4}
    (h : controlBits rst st inValid inEos &&& m = c) (inData : Byte) :
    packOsw rst st inValid inEos inData &&& (m ++ 0#8) = c ++ 0#8 := by
  rw [packOsw_and_append, h, BitVec.and_zero]

/-- Settles O19: along the cascade of R79, each row's mask keeps the control bits that led to it, and PUSH's keeps
every bit. -/
theorem encodeOfDecodeKeepsEveryReadBit : Obligations.EncodeOfDecodeKeepsEveryReadBit := by
  have hreset : ∀ st inValid inEos, controlBits true st inValid inEos &&& 0x8#4 = 0x8#4 := by decide
  have hcheck : ∀ inValid inEos, controlBits false true inValid inEos &&& 0xC#4 = 0x4#4 := by decide
  have hidle : ∀ inEos, controlBits false false false inEos &&& 0xE#4 = 0x0#4 := by decide
  have heos : controlBits false false true true &&& 0xF#4 = 0x3#4 := by decide
  intro w
  obtain ⟨rst, st, inValid, inEos, inData, rfl⟩ := exists_eq_packOsw w
  rw [decodeOsw_packOsw]
  cases rst with
  | true => exact congrArg Encoding.word (packOsw_and_control (hreset st inValid inEos) inData).symm
  | false =>
    cases st with
    | true => exact congrArg Encoding.word (packOsw_and_control (hcheck inValid inEos) inData).symm
    | false =>
      cases inValid with
      | false => exact congrArg Encoding.word (packOsw_and_control (hidle inEos) inData).symm
      | true =>
        cases inEos with
        | true => exact congrArg Encoding.word (packOsw_and_control heos inData).symm
        | false => exact congrArg Encoding.word BitVec.and_allOnes.symm

/-- Settles O20, by running the decoder on the words. -/
theorem tableWordsDecodeToTheirOperations : Obligations.TableWordsDecodeToTheirOperations := by
  unfold Obligations.TableWordsDecodeToTheirOperations
  decide

theorem codewordOf_of_length_ne {bytes : List Byte} (h : bytes.length ≠ 1) :
    codewordOf bytes = .error .codewordNotOneByte := by
  match bytes, h with
  | [], _ => rfl
  | [_], h => exact absurd rfl h
  | _ :: _ :: _, _ => rfl

/-- Settles O21: there is no vector, and no single byte, of another length. -/
theorem wrongOperandLengthIsRejected : Obligations.WrongOperandLengthIsRejected := by
  intro bytes
  refine ⟨fun h => ?asm, fun h => ?val, fun h => ?codeword⟩
  case asm => simp only [decode, decodeFn, vectorOf?_eq_none.2 h]
  case val => simp only [decode, decodeFn, vectorOf?_eq_none.2 h]
  case codeword => simp [decode, decodeFn, codewordOf_of_length_ne h, Except.map]

/-- The 16 table bits of a word, low byte first, are read as the word (log entry 1). -/
theorem decodeTableWord_toNat (w : Osw) : decodeTableWord 16 w.toNat = some (decodeOsw w) := by
  have hlo : BitVec.ofNat 8 w.toNat = w.extractLsb' 0 8 := by
    apply BitVec.eq_of_toNat_eq
    simp
  have hhi : BitVec.ofNat 8 (w.toNat / 256) = (w.extractLsb' 8 4).setWidth 8 := by
    apply BitVec.eq_of_toNat_eq
    simp [Nat.shiftRight_eq_div_pow]
    omega
  have hzero : ∀ x : BitVec 4, x.setWidth 8 &&& 0xF0#8 = 0#8 := by decide
  have hlow : ∀ x : BitVec 4, (x.setWidth 8).extractLsb' 0 4 = x := by decide
  have hw : w.extractLsb' 8 4 ++ w.extractLsb' 0 8 = w := BitVec.extractLsb'_append_extractLsb' (w := 4)
  have hlt : w.toNat < 2 ^ 16 := w.isLt.trans (by decide)
  rw [decodeTableWord, if_pos ⟨.inr rfl, hlt⟩, hlo, hhi, decodeBytes, if_pos (hzero _), hlow, hw]

end Sys2Proof

namespace Sys2Proof.Machine

variable {s t u : State}

/-! ### The function rows (R80) -/

/-- Settles O30: each function row presents a value of its operand alone. -/
theorem functionRowsReadAndWriteNoState : Obligations.FunctionRowsReadAndWriteNoState := by
  intro i hi
  cases i with
  | reset | check | push b | eos | idle => exact nomatch hi
  | synd c | corr c | extr c | decn c | asm w | val f => exact ⟨_, fun _ => rfl⟩

/-- Settles O31: the frame is `asm w`, whose bytes are packed nibbles, and the attempt on it delivers its verdict. -/
theorem checkUsesTheDatapathFunctions : Obligations.CheckUsesTheDatapathFunctions := by
  intro s w hc hw
  obtain ⟨hv, -⟩ := conclude_delivers s (asm w)
  refine ⟨asm w, val (asm w), s.conclude (asm w), rfl, rfl, fun j => ?_,
    exec_check_eq_next.2 ⟨hc, w, hw, rfl⟩, hv⟩
  rw [getElem_asm, packNibbles_high, packNibbles_low]
  exact ⟨rfl, rfl⟩

/-! ### Pins of one edge (R78, R81) -/

/-- An edge with pins of its own performs what they and `st` select, and uses them up (R150). -/
theorem step_of_cycle {p : Pins} {rest : List Stim} (hin : s.inputs = .cycle p :: rest) :
    step s = exec (decodeOsw (packOsw p.rst (s.st == .checking) p.inValid p.inEos p.inData))
      { s with inputs := rest } := by
  have hp : s.pins = p := by
    rw [State.pins, hin]
    rfl
  have ht : s.takeInput = { s with inputs := rest } := by simp [State.takeInput, State.takes, hin]
  rw [step, State.osw, hp, ht]

/-- Settles O36: for each of the four reasons the cascade of R79 stops before it reads the bits that differ. -/
theorem ignoredInputBitsHaveNoEffect : Obligations.IgnoredInputBitsHaveNoEffect := by
  intro s p q rest hrst hignored
  rw [step_of_cycle rfl, step_of_cycle rfl, decodeOsw_packOsw, decodeOsw_packOsw, ← hrst]
  rcases hignored with hr | hc | ⟨hp, hq⟩ | ⟨hp, hq, hpe, hqe⟩
  · rw [hr]
    rfl
  · simp only [hc, beq_self_eq_true, if_true]
  · simp only [hp, hq, Bool.not_false, if_true]
  · simp only [hp, hq, hpe, hqe, if_true]

/-! ### The beat that an edge transfers (R71) -/

/-- An edge transfers nothing, end-of-stream or a byte, and performs an operation of that kind. -/
theorem transferred_cases (s : State) :
    (s.transferred = none ∧ (decodeOsw s.osw = .reset ∨ decodeOsw s.osw = .check ∨ decodeOsw s.osw = .idle)) ∨
    (s.transferred = some .endOfStream ∧ decodeOsw s.osw = .eos) ∨
    ∃ b, s.transferred = some (.byte b) ∧ decodeOsw s.osw = .push b := by
  rw [decodeOsw_osw, State.transferred, State.inReady, Pins.beat]
  cases s.pins.rst with
  | true => exact .inl ⟨rfl, .inl rfl⟩
  | false =>
    cases s.st with
    | checking => exact .inl ⟨rfl, .inr (.inl rfl)⟩
    | filling =>
      cases s.pins.inValid with
      | false => exact .inl ⟨rfl, .inr (.inr rfl)⟩
      | true =>
        cases s.pins.inEos with
        | true => exact .inr (.inl ⟨rfl, rfl⟩)
        | false => exact .inr (.inr ⟨_, rfl, rfl⟩)

theorem transferred_of_checking (hc : s.st = .checking) : s.transferred = none := by
  simp [State.transferred, State.inReady, hc]

/-- Settles O41: the three cases of an edge exclude each other on both sides. -/
theorem beatIsTransferredExactlyAtPushAndEos : Obligations.BeatIsTransferredExactlyAtPushAndEos := by
  intro s
  have hnone := transferred_of_checking (s := s)
  rcases transferred_cases s with ⟨ht, hd | hd | hd⟩ | ⟨ht, hd⟩ | ⟨b, ht, hd⟩ <;> simp_all

/-! ### Placing a word (log entry 12) -/

theorem withFetchWord_toNat (s : State) (w : Osw) : s.withFetchWord 16 w.toNat = s.placeOsw w := by
  rw [State.withFetchWord, State.placeTableWord, decodeTableWord_toNat]
  simp

theorem placeOsw_inputs (s : State) (w : Osw) : (s.placeOsw w).inputs = .cycle (Pins.ofOsw w) :: s.inputs := by
  unfold State.placeOsw
  split <;> rfl

theorem placeOsw_st (s : State) (w : Osw) : ((s.placeOsw w).st == .checking) = oswSt w := by
  unfold State.placeOsw
  split <;> simp [*]

/-- The next edge samples the placed word. -/
theorem placeOsw_osw (s : State) (w : Osw) : (s.placeOsw w).osw = w := by
  have hp : (s.placeOsw w).pins = Pins.ofOsw w := by
    rw [State.pins, placeOsw_inputs]
    rfl
  rw [State.osw, hp, placeOsw_st]
  exact packOsw_fields w

/-- The window is brought to a length that fits the word's `st`. -/
theorem placeOsw_inv (s : State) (w : Osw) : (s.placeOsw w).Inv := by
  unfold State.placeOsw
  split
  · simp [State.Inv]
  · exact inv_of_filling rfl (by simp; omega)

/-- In a legal state whose `st` is the word's, the window already fits. -/
theorem placeOsw_eq (hs : s.Inv) {w : Osw} (hst : s.st = .checking ↔ oswSt w = true) :
    s.placeOsw w = { s with inputs := .cycle (Pins.ofOsw w) :: s.inputs } := by
  unfold State.placeOsw
  split
  next h =>
    have hc := hst.2 h
    have hwin : (s.window ++ List.replicate 30 0#8).take 30 = s.window := by
      rw [← hs.2.1 hc, List.take_left]
    rw [hwin, ← hc]
  next h =>
    have hf := filling_of_ne_checking (mt hst.1 h)
    have hlen := hs.length_lt_of_filling hf
    have hwin : s.window.drop (s.window.length - 29) = s.window := by
      rw [Nat.sub_eq_zero_of_le (Nat.le_of_lt_succ hlen), List.drop_zero]
    rw [hwin, ← hf]

/-- Settles O35: the placed pins and `st` make the word, and they last one edge. -/
theorem placedWordIsTheNextOperation : Obligations.PlacedWordIsTheNextOperation := by
  intro s w hs
  rw [withFetchWord_toNat]
  refine ⟨placeOsw_osw s w, placeOsw_inv s w, ?_, placeOsw_eq hs⟩
  rw [step_of_cycle (placeOsw_inputs s w), placeOsw_st]
  exact congrArg (fun w => exec (decodeOsw w) _) (packOsw_fields w)

/-! ### Runs put together, and what they deliver -/

/-- A run after a run is a run. -/
theorem core_run_add {j k : Nat} (hj : Sys2Proof.core.run j s = .next t) (hk : Sys2Proof.core.run k t = .next u) :
    Sys2Proof.core.run (j + k) s = .next u := by
  induction j generalizing s with
  | zero =>
    obtain rfl : s = t := Host.Outcome.next.inj hj
    rwa [Nat.zero_add]
  | succ j ih =>
    obtain ⟨v, hv, hjv⟩ := core_run_succ_eq_next.1 hj
    rw [Nat.succ_add]
    exact core_run_succ_eq_next.2 ⟨v, hv, ih hjv⟩

/-- From `s` to `t` the observer and the sink receive what `outs` present, in order, and `probe` is kept. -/
structure Delivers (s t : State) (outs : List Output) : Prop where
  observer : t.observer = s.observer ++ outs.filterMap (fun o => o.verdict)
  sink : t.sink = s.sink ++ outs.filterMap (fun o => o.payload)
  probe : t.probe = s.probe

theorem Delivers.refl (s : State) : Delivers s s [] :=
  ⟨(List.append_nil _).symm, (List.append_nil _).symm, rfl⟩

theorem Delivers.trans {o₁ o₂ : List Output} (h₁ : Delivers s t o₁) (h₂ : Delivers t u o₂) :
    Delivers s u (o₁ ++ o₂) := by
  refine ⟨?_, ?_, h₂.probe.trans h₁.probe⟩
  · rw [h₂.observer, h₁.observer, List.filterMap_append, List.append_assoc]
  · rw [h₂.sink, h₁.sink, List.filterMap_append, List.append_assoc]

/-- A step delivers its output (R50). -/
theorem Delivers.of_step (h : step s = .next t) : Delivers s t [t.out] := by
  refine ⟨?_, ?_, step_probe h⟩
  · rw [step_observer h]
    cases hv : t.out.verdict <;> simp [hv]
  · rw [step_sink h]
    cases hp : t.out.payload <;> simp [hp]

/-- A step that presents nothing delivers nothing. -/
theorem Delivers.of_silent_step (h : step s = .next t) (hout : t.out = .silent) : Delivers s t [] := by
  have hd := Delivers.of_step h
  rw [hout] at hd
  exact ⟨hd.observer, hd.sink, hd.probe⟩

/-! ### PUSH and CHECK fused (R145) -/

/-- What the environment presents next is an event that waits in Checking, or nothing at all (R137). -/
def WaitsInChecking (l : List Stim) : Prop :=
  ∀ x ∈ l.head?, ∃ e : Event, x = .event e ∧ e ≠ .reset

/-- While the environment waits, the edge in Checking performs CHECK and takes nothing. -/
theorem step_of_waiting {w : Codewords} (hc : s.st = .checking) (hw : s.window = w.toList)
    (hwait : WaitsInChecking s.inputs) : step s = .next (s.conclude (asm w)) := by
  have hedge : s.pins.rst = false ∧ s.takeInput = s := by
    unfold State.pins State.takeInput
    rcases hin : s.inputs with _ | ⟨x, rest⟩
    · exact ⟨rfl, rfl⟩
    · obtain ⟨e, rfl, he⟩ := hwait x (by rw [hin]; rfl)
      cases e with
      | reset => exact absurd rfl he
      | byte b | endOfStream | nothing => exact ⟨rfl, by simp [State.takes, hc]⟩
  obtain ⟨hr, ht⟩ := hedge
  have hd : decodeOsw s.osw = .check := by simp [decodeOsw_osw, hr, hc]
  rw [step, hd, ht]
  exact exec_check_eq_next.2 ⟨hc, w, hw, rfl⟩

theorem pushCheck_of_not_full {w : List Byte} {b : Byte} (h : w.length + 1 ≠ 30) :
    pushCheck w b = (w ++ [b], .silent) := by
  have hf : fullWindow (w ++ [b]) = none := fullWindow_eq_none.2 (by simpa using h)
  rw [pushCheck, hf]

/-- The byte that fills the window brings the attempt with it. -/
theorem pushCheck_of_full {b : Byte} {w : List Byte} {c : Codewords} (hs : s.window = w ++ [b])
    (hc : s.window = c.toList) : pushCheck w b = ((s.conclude (asm c)).window, (s.conclude (asm c)).out) := by
  rw [pushCheck, ← hs, fullWindow_eq_some.2 hc]
  dsimp only
  generalize asm c = f
  by_cases hg : val f = .good
  · simp only [hg, conclude_good hg, if_true]
  · simp only [hg, conclude_failing hg, if_false]

/-- An offered byte, with the CHECK it may imply, is the fused step, if what comes next waits for the CHECK. -/
theorem core_run_pushCheck {b : Byte} {rest : List Stim} (hst : s.st = .filling)
    (hin : s.inputs = .event (.byte b) :: rest) (hwait : WaitsInChecking rest) :
    ∃ k t, Sys2Proof.core.run k s = .next t ∧ t.st = .filling ∧ t.inputs = rest ∧
      (t.window, t.out) = pushCheck s.window b ∧ Delivers s t [t.out] := by
  have hpush := step_of_byte hst hin
  by_cases hfull : s.window.length + 1 = 30
  · rw [if_pos hfull] at hpush
    obtain ⟨c, hc⟩ := exists_codewords_of_length (l := s.window ++ [b]) (by simpa using hfull)
    have hcheck := step_of_waiting (s := { s with
      window := s.window ++ [b], st := .checking, inputs := rest, out := .silent }) rfl hc hwait
    refine ⟨2, _, (core_run_succ 1 hpush).trans (core_run_one hcheck), conclude_st _ _, conclude_inputs _ _,
      (pushCheck_of_full rfl hc).symm, ?_⟩
    exact (Delivers.of_silent_step hpush rfl).trans (Delivers.of_step hcheck)
  · rw [if_neg hfull] at hpush
    exact ⟨1, _, core_run_one hpush, rfl, rfl, (pushCheck_of_not_full hfull).symm, Delivers.of_step hpush⟩

/-! ### Scripts (R83, R84) -/

/-- The operation that an event brings about in Filling (R78). -/
def Event.operation : Event → Instr
  | .byte b => .push b
  | .endOfStream => .eos
  | .nothing => .idle
  | .reset => .reset

/-- In Filling an offered event is taken, and its operation performed (R137). -/
theorem step_of_event {e : Event} {rest : List Stim} (hst : s.st = .filling) (hin : s.inputs = .event e :: rest) :
    step s = exec e.operation { s with inputs := rest } := by
  have hp : s.pins = e.pins := by
    rw [State.pins, hin]
    rfl
  have hd : decodeOsw s.osw = e.operation := by
    rw [decodeOsw_osw, hp, hst]
    cases e <;> rfl
  rw [step, hd, takeInput_of_event hst hin]

/-- An offered event that is no byte is a silent step to the window of the untimed machine. -/
theorem step_of_silent_event {e : Event} {rest : List Stim} (hst : s.st = .filling)
    (hin : s.inputs = .event e :: rest) (hbyte : ∀ b, e ≠ .byte b) : step s = .next { s with
      window := (untimedStep s.window e).1
      st := .filling
      inputs := rest
      out := .silent } := by
  rw [step_of_event hst hin]
  cases e with
  | byte b => exact absurd rfl (hbyte b)
  | endOfStream => exact exec_eos_eq_next.2 ⟨hst, rfl⟩
  | nothing => exact exec_idle_eq_next.2 ⟨hst, by rw [← hst]; rfl⟩
  | reset => exact exec_reset _

/-- A script's next item is never a bare reset, so it waits for a CHECK (log entry 18). -/
theorem scriptStims_wait (events : List Event) : WaitsInChecking (events.flatMap Event.scriptStims) := by
  cases events with
  | nil => exact fun x hx => nomatch hx
  | cons e later =>
    intro x hx
    cases e <;> exact ⟨_, (Option.some.inj hx).symm, nofun⟩

/-- One event of a script runs as one step of the untimed machine. -/
theorem core_run_scriptStims (e : Event) {rest : List Stim} (hst : s.st = .filling)
    (hin : s.inputs = e.scriptStims ++ rest) (hwait : WaitsInChecking rest) :
    ∃ k t, Sys2Proof.core.run k s = .next t ∧ t.st = .filling ∧ t.inputs = rest ∧
      t.window = (untimedStep s.window e).1 ∧ Delivers s t [(untimedStep s.window e).2] := by
  cases e with
  | byte b =>
    obtain ⟨k, t, hrun, ht, hrest, hpc, hd⟩ := core_run_pushCheck hst hin hwait
    rw [untimedStep, ← hpc]
    exact ⟨k, t, hrun, ht, hrest, rfl, hd⟩
  | endOfStream =>
    have h := step_of_silent_event hst hin nofun
    exact ⟨1, _, core_run_one h, rfl, rfl, rfl, Delivers.of_step h⟩
  | nothing =>
    have h := step_of_silent_event hst hin nofun
    exact ⟨1, _, core_run_one h, rfl, rfl, rfl, Delivers.of_step h⟩
  | reset =>
    have hidle := step_of_silent_event hst hin nofun
    have hreset := step_of_silent_event (s := { s with
      window := (untimedStep s.window .nothing).1
      st := .filling
      inputs := .event .reset :: rest
      out := .silent }) rfl rfl nofun
    exact ⟨2, _, (core_run_succ 1 hidle).trans (core_run_one hreset), rfl, rfl, rfl,
      (Delivers.of_silent_step hidle rfl).trans (Delivers.of_step hreset)⟩

/-- A script's events run as the untimed machine, one after the other. -/
theorem core_run_events (events : List Event) (hst : s.st = .filling)
    (hin : s.inputs = events.flatMap Event.scriptStims) :
    ∃ k t, Sys2Proof.core.run k s = .next t ∧ t.inputs = [] ∧ t.st = .filling ∧
      t.window = (untimedRun s.window events).1 ∧ Delivers s t (untimedRun s.window events).2 := by
  induction events generalizing s with
  | nil => exact ⟨0, s, core_run_zero s, hin, hst, rfl, .refl s⟩
  | cons e later ih =>
    rw [List.flatMap_cons] at hin
    obtain ⟨j, u, hj, hu, hrest, hwin, hd⟩ := core_run_scriptStims e hst hin (scriptStims_wait later)
    obtain ⟨k, t, hk, hnil, ht, hwin', hd'⟩ := ih hu hrest
    rw [hwin] at hwin' hd'
    exact ⟨j + k, t, core_run_add hj hk, hnil, ht, hwin', hd.trans hd'⟩

/-- Settles O58: the script is presented event by event. A window of more bytes than 29 would run alike. -/
theorem scriptRunsOnTheUntimedMachine : Obligations.ScriptRunsOnTheUntimedMachine := by
  intro s items hst _ hin
  obtain ⟨k, t, hrun, hnil, ht, hwin, hd⟩ := core_run_events (items.flatMap Item.events) hst hin
  exact ⟨k, t, hrun, hnil, ht, hwin, hd.observer, hd.sink, hd.probe⟩

end Sys2Proof.Machine
end

section
/-! PROOFS. The family of spec/40_nibble_decoder.md: the four functions (R93 to R96, R103), the bit that they ignore
(R99), the valid codewords (R98), and what a decode can repair (R100, R101). The code is linear: SYND and EXTR
distribute over XOR, so the decode of a damaged codeword is the codeword's nibble XOR the decode of the damage alone. -/

namespace Sys2Proof.Machine

/-! ### SYND (R92, R93) -/

/-- One round of the loop of R92. -/
def syndRound (c : Byte) (acc : Syndrome) (p : Nat) : Syndrome :=
  if c.getLsbD p then acc ^^^ BitVec.ofNat 3 p else acc

theorem synd_eq_foldl (c : Byte) : synd c = Config.checkedPositions.foldl (syndRound c) 0#3 := rfl

theorem getLsbD_syndRound (c : Byte) (acc : Syndrome) (p k : Nat) :
    (syndRound c acc p).getLsbD k = (acc.getLsbD k ^^ (c.getLsbD p && (BitVec.ofNat 3 p).getLsbD k)) := by
  unfold syndRound
  cases c.getLsbD p <;> simp

theorem syndRound_xor (a b : Byte) (x y : Syndrome) (p : Nat) :
    syndRound (a ^^^ b) (x ^^^ y) p = syndRound a x p ^^^ syndRound b y p := by
  apply BitVec.eq_of_getLsbD_eq
  intro k _
  simp only [getLsbD_syndRound, BitVec.getLsbD_xor, Bool.and_xor_distrib_right, Bool.xor_assoc, Bool.xor_left_comm]

theorem foldl_syndRound_xor (a b : Byte) (positions : List Nat) (x y : Syndrome) :
    positions.foldl (syndRound (a ^^^ b)) (x ^^^ y) =
      positions.foldl (syndRound a) x ^^^ positions.foldl (syndRound b) y := by
  induction positions generalizing x y with
  | nil => rfl
  | cons p later ih => rw [List.foldl_cons, syndRound_xor, ih, List.foldl_cons, List.foldl_cons]

theorem synd_eq_parityTrees (c : Byte) : synd c =
    BitVec.ofBool (c.getLsbD 4 ^^ c.getLsbD 5 ^^ c.getLsbD 6 ^^ c.getLsbD 7) ++
    BitVec.ofBool (c.getLsbD 2 ^^ c.getLsbD 3 ^^ c.getLsbD 6 ^^ c.getLsbD 7) ++
    BitVec.ofBool (c.getLsbD 1 ^^ c.getLsbD 3 ^^ c.getLsbD 5 ^^ c.getLsbD 7) := by
  apply BitVec.eq_of_getLsbD_eq
  intro k hk
  simp only [synd_eq_foldl, Config.checkedPositions, List.foldl, getLsbD_syndRound, BitVec.getLsbD_append]
  interval_cases k <;> simp

/-- Settles O1, by the parity trees of the loop. -/
theorem syndIsThreeParityTrees : Obligations.SyndIsThreeParityTrees := by
  intro c s
  rw [← synd_eq_parityTrees]
  rfl

/-- SYND is linear, as each round of its loop is. -/
@[simp] theorem synd_xor (a b : Byte) : synd (a ^^^ b) = synd a ^^^ synd b :=
  foldl_syndRound_xor a b Config.checkedPositions 0#3 0#3

/-- Adding a valid codeword does not move the syndrome. -/
theorem synd_xor_of_valid {v : Byte} (hv : ValidCodeword v) (e : Byte) : synd (v ^^^ e) = synd e := by
  rw [synd_xor, hv, BitVec.zero_xor]

/-! ### CORR (R94) -/

/-- The bit that CORR flips at a syndrome: none at 0. -/
def corrMask (s : Syndrome) : Byte :=
  if s = 0#3 then 0#8 else 1#8 <<< s.toNat

theorem corr_eq_xor_corrMask (c : Byte) : corr c = c ^^^ corrMask (synd c) := by
  unfold corr corrMask
  by_cases h : synd c = 0#3 <;> simp [h]

theorem corr_eq_ite (c : Byte) : corr c = if synd c = 0#3 then c else c ^^^ (1#8 <<< (synd c).toNat) :=
  ite_not ..

/-- The mask of a syndrome is the bit at that position, if the position is checked. -/
theorem getLsbD_corrMask : ∀ (s : Syndrome) (k : Fin 8),
    (corrMask s).getLsbD k = decide (s ≠ 0#3 ∧ k.val = s.toNat) := by decide

/-- The flip of one bit has that bit's position as its syndrome (R92). -/
@[simp] theorem synd_corrMask : ∀ s : Syndrome, synd (corrMask s) = s := by decide

theorem getLsbD_corr (c : Byte) (k : Fin 8) :
    (corr c).getLsbD k = (c.getLsbD k ^^ decide (synd c ≠ 0#3 ∧ k.val = (synd c).toNat)) := by
  rw [corr_eq_xor_corrMask, BitVec.getLsbD_xor, getLsbD_corrMask]

/-- Bit 0 is never changed: a syndrome that is not 0 has another position. -/
theorem getLsbD_corr_zero (c : Byte) : (corr c).getLsbD 0 = c.getLsbD 0 := by
  have hzero : ¬ (synd c ≠ 0#3 ∧ 0 = (synd c).toNat) := fun ⟨hne, h⟩ => hne (BitVec.eq_of_toNat_eq h.symm)
  exact (getLsbD_corr c 0).trans ((congrArg _ (decide_eq_false hzero)).trans (Bool.xor_false _))

/-- A checked bit is flipped exactly when the syndrome is its position (R103). -/
theorem getLsbD_corr_toNat (c : Byte) {q : Syndrome} (hq : q ≠ 0#3) :
    (corr c).getLsbD q.toNat = (c.getLsbD q.toNat ^^ (synd c == q)) := by
  refine (getLsbD_corr c q.toFin).trans (congrArg _ (Bool.eq_iff_iff.2 ?_))
  rw [decide_eq_true_iff, beq_iff_eq]
  constructor
  · rintro ⟨-, h⟩
    exact (BitVec.eq_of_toNat_eq h).symm
  · rintro rfl
    exact ⟨hq, rfl⟩

/-- What CORR gives is valid: flipping bit `s` moves the syndrome by `s` (R94). -/
theorem corr_valid (c : Byte) : ValidCodeword (corr c) := by
  rw [ValidCodeword, corr_eq_xor_corrMask, synd_xor, synd_corrMask, BitVec.xor_self]

theorem corr_of_valid {c : Byte} (hc : ValidCodeword c) : corr c = c := by
  rw [corr_eq_ite, if_pos hc]

/-- CORR repairs the damage alone, whatever valid codeword it stands on. -/
theorem corr_xor_of_valid {v : Byte} (hv : ValidCodeword v) (e : Byte) : corr (v ^^^ e) = v ^^^ corr e := by
  rw [corr_eq_xor_corrMask, synd_xor_of_valid hv, BitVec.xor_assoc, ← corr_eq_xor_corrMask]

/-- Settles O2: the mask of the syndrome is one bit, or none. -/
theorem corrFlipsExactlyTheBitAtTheSyndrome : Obligations.CorrFlipsExactlyTheBitAtTheSyndrome := by
  intro c s
  refine ⟨?_, fun k => ?_, getLsbD_corr_zero c, corr_valid c, corr_of_valid (corr_valid c)⟩
  · rw [← corr_eq_ite]
    rfl
  · rw [getLsbD_corr]
    cases c.getLsbD k <;> simp

/-! ### EXTR and DECN (R95, R96) -/

theorem getLsbD_extr (c : Byte) :
    (extr c).getLsbD 3 = c.getLsbD 7 ∧ (extr c).getLsbD 2 = c.getLsbD 6 ∧ (extr c).getLsbD 1 = c.getLsbD 5 ∧
    (extr c).getLsbD 0 = c.getLsbD 3 := by
  simp only [extr, BitVec.getLsbD_append]
  simp

/-- EXTR is linear. -/
@[simp] theorem extr_xor (a b : Byte) : extr (a ^^^ b) = extr a ^^^ extr b := by
  refine Eq.symm (BitVec.xor_append.trans ?_)
  simp only [extr, BitVec.getLsbD_xor, BitVec.xor_append, BitVec.ofBool_xor_ofBool]

/-- Settles O3, bit by bit. -/
theorem extrTakesTheFourDataBits : Obligations.ExtrTakesTheFourDataBits :=
  fun c _ => ⟨extr c, rfl, getLsbD_extr c⟩

/-- Settles O4: the data bits of CORR, each at its position. -/
theorem decnHasTheClosedForm : Obligations.DecnHasTheClosedForm := by
  intro c s
  obtain ⟨h3, h2, h1, h0⟩ := getLsbD_extr (corr c)
  refine ⟨decn c, rfl, rfl, h3.trans ?_, h2.trans ?_, h1.trans ?_, h0.trans ?_⟩
  · exact getLsbD_corr_toNat c (q := 7#3) (by decide)
  · exact getLsbD_corr_toNat c (q := 6#3) (by decide)
  · exact getLsbD_corr_toNat c (q := 5#3) (by decide)
  · exact getLsbD_corr_toNat c (q := 3#3) (by decide)

theorem decn_of_valid {c : Byte} (hc : ValidCodeword c) : decn c = extr c := by
  rw [decn, corr_of_valid hc]

/-- The decode of a damaged codeword is its nibble XOR the decode of the damage. -/
theorem decn_xor_of_valid {v : Byte} (hv : ValidCodeword v) (e : Byte) : decn (v ^^^ e) = extr v ^^^ decn e := by
  rw [decn, corr_xor_of_valid hv, extr_xor, decn]

/-! ### The valid codewords (R98, R99) -/

/-- Bit 0 is no checked position. -/
theorem valid_bitZero : ValidCodeword 0x01#8 := by decide

/-- Bit 0 is no data bit. -/
theorem decn_bitZero : decn 0x01#8 = 0#4 := by decide

theorem valid_cw : ∀ n : Nibble, ValidCodeword (cw n) := by decide

@[simp] theorem extr_cw : ∀ n : Nibble, extr (cw n) = n := by decide

/-- The valid codewords of nibble 0; those of the others are these XOR a canonical codeword. -/
theorem valid_and_extr_eq_zero_iff : ∀ c : Byte, (ValidCodeword c ∧ extr c = 0#4) ↔ (c = 0#8 ∨ c = 0x01#8) := by
  decide

/-- Settles O5: bit 0 is a valid codeword of nibble 0, so adding it moves no syndrome and no nibble. -/
theorem bitZeroIsAPassThroughSlot : Obligations.BitZeroIsAPassThroughSlot := by
  intro c
  rw [BitVec.xor_comm c]
  refine ⟨synd_xor_of_valid valid_bitZero c, ?_, ?_⟩
  · rw [corr_xor_of_valid valid_bitZero, BitVec.xor_comm]
  · rw [decn_xor_of_valid valid_bitZero, ← decn_of_valid valid_bitZero, decn_bitZero, BitVec.zero_xor]

theorem valid_iff_parityEquations (c : Byte) : ValidCodeword c ↔
    (c.getLsbD 1 = (c.getLsbD 3 ^^ c.getLsbD 5 ^^ c.getLsbD 7) ∧
     c.getLsbD 2 = (c.getLsbD 3 ^^ c.getLsbD 6 ^^ c.getLsbD 7) ∧
     c.getLsbD 4 = (c.getLsbD 5 ^^ c.getLsbD 6 ^^ c.getLsbD 7)) := by
  have hzero : ∀ p4 p2 p1 : Bool, BitVec.ofBool p4 ++ BitVec.ofBool p2 ++ BitVec.ofBool p1 = 0#3 ↔
      p1 = false ∧ p2 = false ∧ p4 = false := by decide
  rw [ValidCodeword, synd_eq_parityTrees]
  simp only [hzero, Bool.xor_assoc, bne_eq_false_iff_eq]

theorem valid_and_extr_eq_iff (n : Nibble) (c : Byte) :
    (ValidCodeword c ∧ extr c = n) ↔ (c = cw n ∨ c = cw n ^^^ 0x01#8) := by
  have h := valid_and_extr_eq_zero_iff (cw n ^^^ c)
  rw [ValidCodeword, synd_xor_of_valid (valid_cw n), extr_xor, extr_cw] at h
  simpa only [xor_eq_iff_right_eq, BitVec.xor_zero] using h

/-- Settles O6. The table and the count are evaluated; the rest is linearity over the valid codewords of nibble 0. -/
theorem validCodewordsAreThoseOfTheParityEquations : Obligations.ValidCodewordsAreThoseOfTheParityEquations := by
  refine ⟨valid_iff_parityEquations, valid_and_extr_eq_iff, fun n => ⟨?_, ?_, ?_⟩,
    fun c hc => ⟨corr_of_valid hc, decn_of_valid hc⟩, by decide, by decide⟩
  · rw [decn_of_valid (valid_cw n), extr_cw]
  · rw [decn_xor_of_valid (valid_cw n), decn_bitZero, extr_cw, BitVec.xor_zero]
  · revert n
    decide

/-! ### What a decode can repair (R100, R101) -/

/-- The damage that changes no nibble is that of at most one checked flip. By linearity the codeword is out of the
question, so one byte ranges over its 256 values. -/
theorem decn_eq_zero_iff : ∀ e : Byte, decn e = 0#4 ↔ checkedFlips e ≤ 1 := by decide

/-- A damaged codeword keeps its nibble exactly when at most one checked bit of it is flipped. -/
theorem decn_xor_eq_extr_iff {v : Byte} (hv : ValidCodeword v) (e : Byte) :
    decn (v ^^^ e) = extr v ↔ checkedFlips e ≤ 1 := by
  rw [decn_xor_of_valid hv, xor_left_eq_self_iff]
  exact decn_eq_zero_iff e

/-- Settles O7: the codeword drops out, and the damage alone decides. -/
theorem decodeIsRightExactlyUpToOneCheckedFlip : Obligations.DecodeIsRightExactlyUpToOneCheckedFlip := by
  rintro n v e hv rfl
  exact decn_xor_eq_extr_iff hv e

/-- A byte is near the canonical codeword of the nibble it decodes to, and of no other. -/
theorem checkedFlips_xor_cw_le_one_iff (c : Byte) (n : Nibble) : checkedFlips (c ^^^ cw n) ≤ 1 ↔ decn c = n := by
  rw [← decn_xor_eq_extr_iff (valid_cw n), extr_cw, xor_xor_cancel_comm_assoc]

/-- Settles O8: CORR always answers a valid codeword, and the nibble is lost by `decn_xor_eq_extr_iff`. -/
theorem everyByteIsNearExactlyOneCodeword : Obligations.EveryByteIsNearExactlyOneCodeword := by
  refine ⟨fun v e hv he => ?_, fun c => ⟨decn c, ?_, fun m hm => ?_⟩⟩
  · have hlost : decn (v ^^^ e) ≠ extr v := mt (decn_xor_eq_extr_iff hv e).1 (Nat.not_le.2 he)
    exact ⟨corr_valid _, hlost, hlost⟩
  · exact (checkedFlips_xor_cw_le_one_iff c _).2 rfl
  · exact ((checkedFlips_xor_cw_le_one_iff c m).1 hm).symm

end Sys2Proof.Machine
end

section
/-! PROOFS. The family of spec/41_frame_assembler.md: the packing (R110), its lanes (R113), and the damage that it masks
(R115), up to the payload that CHECK emits (R126, R142). -/

namespace Sys2Proof.Machine

/-! ### Packing and lanes (R110, R113) -/

/-- Settles O9: the frame byte is the two nibbles, packed. -/
theorem asmPacksEachNibblePair : Obligations.AsmPacksEachNibblePair :=
  fun w _ => ⟨asm w, rfl, fun j => getElem_asm w j.val j.isLt⟩

/-- The high half of a frame byte reads the even codeword of its pair. -/
theorem asm_high (w : Codewords) (j : Nat) (h : j < 15) : (asm w)[j].extractLsb' 4 4 = decn w[2 * j] := by
  rw [getElem_asm, packNibbles_high]

/-- The low half of a frame byte reads the odd codeword of its pair. -/
theorem asm_low (w : Codewords) (j : Nat) (h : j < 15) : (asm w)[j].extractLsb' 0 4 = decn w[2 * j + 1] := by
  rw [getElem_asm, packNibbles_low]

/-- Settles O10: the half or byte in question reads codewords whose index is not `i`. -/
theorem asmLanesAreIndependent : Obligations.AsmLanesAreIndependent := by
  intro w i b
  refine ⟨fun j hj => ?_, fun heven => ?_, fun hodd => ?_⟩
  · rw [getElem_asm, getElem_asm, Vector.getElem_set_ne _ _ (by omega), Vector.getElem_set_ne _ _ (by omega)]
  · rw [asm_low, asm_low, Vector.getElem_set_ne _ _ (by omega)]
  · rw [asm_high, asm_high, Vector.getElem_set_ne _ _ (by omega)]

/-! ### The damage that is masked (R115) -/

/-- A codeword decodes to the nibble of a valid one exactly when it is within one checked flip of it. -/
theorem decn_eq_decn_of_valid_iff {v : Byte} (hv : ValidCodeword v) (c : Byte) :
    decn c = decn v ↔ checkedFlips (c ^^^ v) ≤ 1 := by
  rw [← decn_xor_eq_extr_iff hv, xor_xor_cancel_comm_assoc, decn_of_valid hv]

/-- ASM reads its codewords through their nibbles alone. -/
theorem asm_congr {w w' : Codewords} (h : ∀ i : Fin 30, decn w[i.val] = decn w'[i.val]) : asm w = asm w' := by
  refine Vector.ext fun j hj => ?_
  rw [getElem_asm, getElem_asm, h ⟨2 * j, by omega⟩, h ⟨2 * j + 1, by omega⟩]

/-- One checked flip per codeword leaves the frame of valid codewords as it is. -/
theorem asm_eq_of_near {v w : Codewords}
    (h : ∀ i : Fin 30, ValidCodeword v[i.val] ∧ checkedFlips (w[i.val] ^^^ v[i.val]) ≤ 1) : asm w = asm v :=
  asm_congr fun i => (decn_eq_decn_of_valid_iff (h i).1 _).2 (h i).2

/-- Settles O11: both windows give the frame of the codewords they are near to. -/
theorem asmMasksOneFlipPerCodeword : Obligations.AsmMasksOneFlipPerCodeword := by
  refine ⟨fun v w w' h => ?_, fun v c hv hflips => ?_⟩
  · calc asm w = asm v := asm_eq_of_near fun i => ⟨(h i).1, (h i).2.1⟩
      _ = asm w' := (asm_eq_of_near fun i => ⟨(h i).1, (h i).2.2⟩).symm
  · exact mt (decn_eq_decn_of_valid_iff hv c).1 (Nat.not_le.2 hflips)

/-! ### The valid frame of a payload and its codewords (R65, R66) -/

theorem getElem_frameOf_payload (p : Payload) (k : Nat) (h : k < 12) : (frameOf p)[2 + k] = p[k] := by
  simp [frameOf, show 2 + k < 14 by omega]

theorem payloadOf_frameOf (p : Payload) : payloadOf (frameOf p) = p := by
  refine Vector.ext fun k hk => ?_
  rw [getElem_payloadOf, getElem_frameOf_payload]

/-- The frame of a payload begins with the two sync bytes and carries the payload's checksum, so it is valid (R126). -/
theorem val_frameOf (p : Payload) : val (frameOf p) = .good := by
  have hsync0 : (frameOf p)[0] = Config.sync := by simp [frameOf]
  have hsync1 : (frameOf p)[1] = Config.sync := by simp [frameOf]
  have hck : (frameOf p)[14] = xorAll p.toList := by simp [frameOf]
  rw [val_eq_good, checksum, payloadOf_frameOf, hsync0, hsync1, hck]
  simp

theorem decn_cw (n : Nibble) : decn (cw n) = n := by
  rw [decn_of_valid (valid_cw n), extr_cw]

theorem getElem_codewordsOf_high (f : Frame) (j : Nat) (h : j < 15) :
    (codewordsOf f)[2 * j] = cw (f[j].extractLsb' 4 4) := by
  simp [codewordsOf]

theorem getElem_codewordsOf_low (f : Frame) (j : Nat) (h : j < 15) :
    (codewordsOf f)[2 * j + 1] = cw (f[j].extractLsb' 0 4) := by
  simp [codewordsOf, show (2 * j + 1) / 2 = j by omega]

theorem valid_getElem_codewordsOf (f : Frame) (i : Nat) (h : i < 30) : ValidCodeword (codewordsOf f)[i] := by
  rw [codewordsOf, Vector.getElem_ofFn]
  exact valid_cw _

/-- ASM undoes the encoding of a frame. -/
theorem asm_codewordsOf (f : Frame) : asm (codewordsOf f) = f := by
  refine Vector.ext fun j hj => ?_
  rw [getElem_asm, getElem_codewordsOf_high f j hj, getElem_codewordsOf_low f j hj, decn_cw, decn_cw,
    packNibbles_halves]

/-- Settles O56: the damage is masked, so ASM gives the frame that was sent, which is valid and carries its payload. -/
theorem sentPayloadIsEmittedDespiteOneFlipPerCodeword : Obligations.SentPayloadIsEmittedDespiteOneFlipPerCodeword := by
  intro s p w hc hw hflips
  have hframe : asm w = frameOf p :=
    (asm_eq_of_near fun i => ⟨valid_getElem_codewordsOf _ _ i.isLt, hflips i⟩).trans (asm_codewordsOf _)
  have hcheck : exec .check s = .next (s.conclude (asm w)) := exec_check_eq_next.2 ⟨hc, w, hw, rfl⟩
  rw [hcheck, hframe, conclude_good (val_frameOf p), payloadOf_frameOf]

end Sys2Proof.Machine
end

section
/-! PROOFS. The family of spec/42_frame_validator.md: the two tests (R120, R122), the checksum as a XOR of bytes and of
bits (R123), what VAL says of a frame that was sent (R126), and how many frames have each verdict (R125). -/

namespace Sys2Proof.Machine

/-! ### The sync test and the three verdicts (R122, R124) -/

/-- Both sync bytes of a frame are there. -/
def Synced (f : Frame) : Prop := f[0] = Config.sync ∧ f[1] = Config.sync

/-- The sync test of R120 as it is written fails on the frames that lack a sync byte. -/
theorem syncTest_iff_not_synced {f : Frame} : (f[0] ≠ f[1] ∨ f[0] ≠ Config.sync) ↔ ¬ Synced f := by
  rw [← not_and_or, Synced, not_iff_not]
  constructor
  · rintro ⟨heq, h0⟩
    exact ⟨h0, heq ▸ h0⟩
  · rintro ⟨h0, h1⟩
    exact ⟨h0.trans h1.symm, h0⟩

theorem val_eq_noSync_iff_not_synced {f : Frame} : val f = .noSync ↔ ¬ Synced f :=
  val_eq_noSync.trans syncTest_iff_not_synced

theorem val_eq_good_iff_synced {f : Frame} : val f = .good ↔ Synced f ∧ checksum f = f[14] := by
  rw [val_eq_good, syncTest_iff_not_synced, not_not]

/-- The verdict is one of three, so a frame in sync that is not good has a wrong checksum. -/
theorem val_eq_wrongChecksum_iff_not_good {f : Frame} : val f = .wrongChecksum ↔ Synced f ∧ val f ≠ .good := by
  have hthree : ∀ v : Verdict, v = .wrongChecksum ↔ ¬ v = .noSync ∧ v ≠ .good := by
    intro v
    cases v <;> decide
  rw [hthree, val_eq_noSync_iff_not_synced, not_not]

theorem val_eq_wrongChecksum_iff_synced {f : Frame} : val f = .wrongChecksum ↔ Synced f ∧ checksum f ≠ f[14] := by
  rw [val_eq_wrongChecksum_iff_not_good, Ne, val_eq_good_iff_synced, not_and]
  exact and_congr_right imp_iff_right

/-- The sync test as one 16-bit comparison. -/
theorem append_eq_iff_synced {f : Frame} : f[0] ++ f[1] = 0xAAAA#16 ↔ Synced f := by
  constructor
  · intro h
    have h0 := congrArg (BitVec.extractLsb' 8 8) h
    have h1 := congrArg (BitVec.extractLsb' 0 8) h
    rw [BitVec.extractLsb'_append_eq_left] at h0
    rw [BitVec.extractLsb'_append_eq_right] at h1
    exact ⟨h0, h1⟩
  · rintro ⟨h0, h1⟩
    rw [h0, h1]
    rfl

/-- A packed byte is the sync byte when both nibbles are `0xA`. -/
theorem packNibbles_eq_sync_iff : ∀ hi lo : Nibble, packNibbles hi lo = Config.sync ↔ hi = 0xA#4 ∧ lo = 0xA#4 := by
  decide

theorem synced_asm_iff {w : Codewords} :
    Synced (asm w) ↔ (decn w[0] = 0xA#4 ∧ decn w[1] = 0xA#4 ∧ decn w[2] = 0xA#4 ∧ decn w[3] = 0xA#4) := by
  rw [Synced, getElem_asm, getElem_asm, packNibbles_eq_sync_iff, packNibbles_eq_sync_iff, and_assoc]

/-- Settles O13: each form of the test says that the frame is not in sync. -/
theorem syncTestHasThreeForms : Obligations.SyncTestHasThreeForms :=
  ⟨fun _ => ⟨val_eq_noSync_iff_not_synced.trans not_and_or,
      val_eq_noSync_iff_not_synced.trans append_eq_iff_synced.not.symm⟩,
    fun _ => val_eq_noSync_iff_not_synced.trans synced_asm_iff.not⟩

/-! ### The checksum (R123) -/

/-- A bit of a XOR of bytes is the parity of that bit of the bytes. -/
theorem getLsbD_xorAll (l : List Byte) (b : Nat) :
    (xorAll l).getLsbD b = l.foldl (fun acc x => acc ^^ x.getLsbD b) false := by
  have hinit : (0#8).getLsbD b = false := BitVec.getLsbD_zero
  rw [← hinit]
  exact (List.foldl_hom (fun x : Byte => x.getLsbD b) fun _ _ => BitVec.getLsbD_xor.symm).symm

theorem xorAll_concat (l : List Byte) (b : Byte) : xorAll (l ++ [b]) = xorAll l ^^^ b :=
  List.foldl_concat ..

/-- The payload is the frame's bytes 2 to 13, read off its list. -/
theorem toList_payloadOf (f : Frame) :
    (payloadOf f).toList = (List.range 12).map fun k => f.toList.getD (2 + k) 0#8 := by
  refine List.ext_getElem (by simp) fun k hk _ => ?_
  have hk : k < 12 := by simpa using hk
  simp [show 2 + k < 15 by omega]

/-- The bytes from index 2 on are the payload and the checksum byte. -/
theorem drop_two_toList (f : Frame) : f.toList.drop 2 = (payloadOf f).toList ++ [f[14]] := by
  refine List.ext_getElem (by simp) fun k hk _ => ?_
  have hk : k < 13 := by simpa using hk
  by_cases hlast : k = 12
  · subst hlast
    simp
  · simp [show k < 12 by omega]

/-- Settles O14: a bit of the checksum is a column's parity, and two bytes are equal when their XOR is 0. -/
theorem checksumIsTheColumnParity : Obligations.ChecksumIsTheColumnParity := by
  intro f
  refine ⟨fun b => ?_, ?_⟩
  · rw [checksum, getLsbD_xorAll, toList_payloadOf, List.foldl_map]
  · rw [drop_two_toList, xorAll_concat, ← checksum, BitVec.xor_eq_zero_iff]

/-! ### The verdict as R120 writes it -/

/-- The twelve bytes of R120, XORed in their order. -/
theorem checksum_eq_xor (f : Frame) : checksum f =
    f[2] ^^^ f[3] ^^^ f[4] ^^^ f[5] ^^^ f[6] ^^^ f[7] ^^^ f[8] ^^^ f[9] ^^^ f[10] ^^^ f[11] ^^^ f[12] ^^^ f[13] := by
  simp [checksum, xorAll, toList_payloadOf, List.range_succ]

/-- Settles O12: VAL presents the model's verdict, whose checksum is the XOR of R120. -/
theorem valTestsSyncThenChecksum : Obligations.ValTestsSyncThenChecksum := by
  intro f s
  rw [← checksum_eq_xor]
  rfl

/-! ### The three properties (R126) -/

/-- Settles O15: (a) is what a sent frame carries; (b) and (c) are the two failing verdicts. -/
theorem validatorProperties : Obligations.ValidatorProperties := by
  refine ⟨fun p => ⟨val_frameOf p, payloadOf_frameOf p⟩, fun f h => ?_, fun f h0 h1 hck => ?_⟩
  · refine val_eq_noSync_iff_not_synced.2 fun ⟨h0, h1⟩ => ?_
    rcases h with hne | hne | hne
    · exact hne (h0.trans h1.symm)
    · exact hne h0
    · exact hne h1
  · exact val_eq_wrongChecksum_iff_synced.2 ⟨⟨h0, h1⟩, hck.symm⟩

/-! ### The counts over all frames (R125) -/

/-- A vector of bytes is a choice of each of its bytes. -/
def bytesEquiv (n : Nat) : Vector Byte n ≃ (Fin n → Byte) where
  toFun v i := v[i.val]
  invFun := Vector.ofFn
  left_inv v := by simp
  right_inv g := by simp

theorem finite_bytes (n : Nat) : Finite (Vector Byte n) :=
  Finite.of_equiv _ (bytesEquiv n).symm

theorem card_byte : Nat.card Byte = 2 ^ 8 := by
  rw [Nat.card_congr BitVec.equivFin.toEquiv, Nat.card_fin]

theorem card_bytes (n : Nat) : Nat.card (Vector Byte n) = (2 ^ 8) ^ n := by
  rw [Nat.card_congr (bytesEquiv n), Nat.card_fun, card_byte, Nat.card_fin]

/-- A frame is its two sync bytes, its payload and its checksum byte (R65). -/
theorem frame_ext {f g : Frame} (h0 : f[0] = g[0]) (h1 : f[1] = g[1]) (hp : payloadOf f = payloadOf g)
    (hck : f[14] = g[14]) : f = g := by
  refine Vector.ext fun j hj => ?_
  by_cases hpay : 2 ≤ j ∧ j < 14
  · obtain ⟨k, rfl⟩ := Nat.exists_eq_add_of_le hpay.1
    rw [← getElem_payloadOf f k (by omega), hp, getElem_payloadOf]
  · obtain rfl | rfl | rfl : j = 0 ∨ j = 1 ∨ j = 14 := by omega
    · exact h0
    · exact h1
    · exact hck

/-- The frame of a payload with another checksum byte. -/
def frameWith (p : Payload) (ck : Byte) : Frame := (frameOf p).set 14 ck

theorem synced_frameWith (p : Payload) (ck : Byte) : Synced (frameWith p ck) := by
  simp [Synced, frameWith, frameOf]

theorem getElem_frameWith_checksum (p : Payload) (ck : Byte) : (frameWith p ck)[14] = ck := by
  simp [frameWith]

theorem payloadOf_frameWith (p : Payload) (ck : Byte) : payloadOf (frameWith p ck) = p := by
  refine Vector.ext fun k hk => ?_
  rw [getElem_payloadOf, frameWith, Vector.getElem_set_ne _ _ (by omega), getElem_frameOf_payload]

/-- In sync, the payload and the checksum byte are all that a frame has. -/
theorem eq_of_synced {f g : Frame} (hf : Synced f) (hg : Synced g) (hp : payloadOf f = payloadOf g)
    (hck : f[14] = g[14]) : f = g :=
  frame_ext (hf.1.trans hg.1.symm) (hf.2.trans hg.2.symm) hp hck

/-- A frame in sync is a payload and a checksum byte. -/
def syncedEquiv : { f : Frame // Synced f } ≃ Payload × Byte where
  toFun f := (payloadOf f.val, f.val[14])
  invFun pc := ⟨frameWith pc.1 pc.2, synced_frameWith ..⟩
  left_inv f := Subtype.ext <| eq_of_synced (synced_frameWith ..) f.property (payloadOf_frameWith ..)
    (getElem_frameWith_checksum ..)
  right_inv pc := Prod.ext (payloadOf_frameWith ..) (getElem_frameWith_checksum ..)

/-- A good frame is a payload: the sync bytes and the checksum are then fixed. -/
def goodEquiv : { f : Frame // val f = .good } ≃ Payload where
  toFun f := payloadOf f.val
  invFun p := ⟨frameOf p, val_frameOf p⟩
  left_inv := by
    rintro ⟨f, hf⟩
    obtain ⟨hsync, hck⟩ := val_eq_good_iff_synced.1 hf
    obtain ⟨hsync', hck'⟩ := val_eq_good_iff_synced.1 (val_frameOf (payloadOf f))
    refine Subtype.ext (eq_of_synced hsync' hsync (payloadOf_frameOf _) ?_)
    rw [← hck, ← hck', checksum, checksum, payloadOf_frameOf]
  right_inv p := payloadOf_frameOf p

theorem card_synced : Nat.card { f : Frame // Synced f } = 2 ^ 104 := by
  rw [Nat.card_congr syncedEquiv, Nat.card_prod, card_bytes, card_byte]
  norm_num

theorem card_good : Nat.card { f : Frame // val f = .good } = 2 ^ 96 := by
  rw [Nat.card_congr goodEquiv, card_bytes]
  norm_num

/-- The frames in sync that are not good have a wrong checksum. -/
theorem card_wrongChecksum :
    Nat.card { f : Frame // val f = .wrongChecksum } = 2 ^ 104 - 2 ^ 96 := by
  have := finite_bytes 15
  have hsplit : { f | val f = .wrongChecksum } = { f | Synced f } \ { f | val f = .good } :=
    Set.ext fun f => val_eq_wrongChecksum_iff_not_good
  have hsub : { f | val f = .good } ⊆ { f | Synced f } := fun f hf => (val_eq_good_iff_synced.1 hf).1
  rw [← card_synced, ← card_good]
  exact (congrArg Set.ncard hsplit).trans (Set.ncard_sdiff hsub)

/-- The frames that are not in sync are the rest of all frames. -/
theorem card_noSync : Nat.card { f : Frame // val f = .noSync } = 2 ^ 120 - 2 ^ 104 := by
  have := finite_bytes 15
  have hsplit : { f | val f = .noSync } = { f | Synced f }ᶜ := Set.ext fun f => val_eq_noSync_iff_not_synced
  have hall : Nat.card Frame = 2 ^ 120 := card_bytes 15
  rw [← card_synced, ← hall]
  exact (congrArg Set.ncard hsplit).trans (Set.ncard_compl _)

/-- Settles O16: good frames are counted by their payloads, frames in sync by payload and last byte, the others are
what is left of each. -/
theorem verdictCountsOverAllFrames : Obligations.VerdictCountsOverAllFrames :=
  ⟨card_good, card_wrongChecksum, card_noSync⟩

end Sys2Proof.Machine
end

section
/-! PROOFS. The family of spec/43_stream_synchronizer.md: the operations PUSH, CHECK, EOS and IDLE (R138 to R148), the
step as the transition table and its ports (R136, R137, R150, R151), and the run of a whole stream (R153 to R158). -/

namespace Sys2Proof.Machine

variable {s s' t u : State}

/-! ### The end of an attempt, from its frame alone (R140) -/

/-- What an attempt on the frame presents. -/
def attemptOutput (f : Frame) : Output :=
  ⟨some (val f), if val f = .good then some (payloadOf f) else none⟩

theorem attemptOutput_payload_isSome (f : Frame) : (attemptOutput f).payload.isSome = (val f == .good) := by
  by_cases h : val f = .good <;> simp [attemptOutput, h]

theorem attemptOutput_payload_map {α : Type} (f : Frame) (g : Payload → α) :
    (attemptOutput f).payload.map g = if val f = .good then some (g (payloadOf f)) else none := by
  by_cases h : val f = .good <;> simp [attemptOutput, h]

/-- How many bytes of the window an attempt with this verdict discards (R141, R143). -/
def Verdict.advance (v : Verdict) : Nat :=
  if v = .good then 30 else 1

theorem Verdict.advance_pos (v : Verdict) : 0 < v.advance := by
  unfold Verdict.advance
  split <;> decide

theorem Verdict.advance_le (v : Verdict) : v.advance ≤ 30 := by
  unfold Verdict.advance
  split <;> decide

theorem conclude_out (s : State) (f : Frame) : (s.conclude f).out = attemptOutput f := by
  rw [attemptOutput]
  split
  next h => rw [conclude_good h, h]
  next h => rw [conclude_failing h]

theorem conclude_payload (s : State) (f : Frame) :
    (s.conclude f).out.payload = if val f = .good then some (payloadOf f) else none := by
  rw [conclude_out, attemptOutput]

/-- The bytes of a full window that stay after an attempt. -/
theorem drop_advance {l : List Byte} (hl : l.length = 30) (v : Verdict) :
    l.drop v.advance = if v = .good then [] else l.tail := by
  unfold Verdict.advance
  split
  · exact List.drop_eq_nil_of_le hl.le
  · exact List.drop_one

/-! ### The operations (R138 to R148) -/

/-- CHECK in Checking on the window `w` ends the attempt on its frame. -/
theorem exec_check_of_window {w : Codewords} (hc : s.st = .checking) (hw : s.window = w.toList) :
    exec .check s = .next (s.conclude (asm w)) :=
  exec_check_eq_next.2 ⟨hc, w, hw, rfl⟩

/-- Settles O23: the rule of PUSH. -/
theorem pushAppendsTheByte : Obligations.PushAppendsTheByte :=
  fun _ _ hst _ => exec_push_eq_next.2 ⟨hst, rfl⟩

/-- Settles O24: the attempt on a Good frame. -/
theorem goodCheckEmitsAndClears : Obligations.GoodCheckEmitsAndClears := by
  intro s w hc hw hgood
  refine ⟨payloadOf (asm w), fun k => getElem_payloadOf _ k.val k.isLt, ?_⟩
  rw [exec_check_of_window hc hw, conclude_good hgood]

/-- Settles O25: the attempt on a failing frame keeps the window's tail. -/
theorem failingCheckSlidesByOne : Obligations.FailingCheckSlidesByOne := by
  intro s w hc hw hfail
  refine ⟨s.window.tail, by simp [hw], fun i => ?_, ?_⟩
  · simp [hw]
  · rw [exec_check_of_window hc hw, conclude_failing hfail]

/-- Settles O26: a full window is an operand of ASM, and the attempt on its frame delivers what it presents. -/
theorem checkMakesOneVerdictOnEveryFullWindow : Obligations.CheckMakesOneVerdictOnEveryFullWindow := by
  intro s hc hl
  obtain ⟨w, hw⟩ := exists_codewords_of_length hl
  obtain ⟨hverdict, hobs, hsink, -⟩ := conclude_delivers s (asm w)
  refine ⟨w, s.conclude (asm w), hw, exec_check_of_window hc hw, conclude_st _ _, hverdict, hobs,
    conclude_payload _ _, hsink, conclude_window _ _, conclude_inputs _ _, conclude_probe _ _⟩

/-- Settles O27: the rule of EOS, and the values of reset. -/
theorem eosDiscardsThePartialWindow : Obligations.EosDiscardsThePartialWindow :=
  fun _ hst => ⟨exec_eos_eq_next.2 ⟨hst, rfl⟩, rfl, rfl⟩

/-- A step with nothing offered clears the output and changes nothing else of CORE's. -/
theorem step_of_nothing {rest : List Stim} (hst : s.st = .filling) (hin : s.inputs = .event .nothing :: rest) :
    step s = .next { s with inputs := rest, out := .silent } := by
  rw [step_of_event hst hin]
  exact exec_idle_eq_next.2 ⟨hst, rfl⟩

/-- Any positive number of steps with nothing offered does what one does. -/
theorem core_run_nothing (n : Nat) (rest : List Stim) (hst : s.st = .filling)
    (hin : s.inputs = List.replicate (n + 1) (.event .nothing) ++ rest) :
    Sys2Proof.core.run (n + 1) s = .next { s with inputs := rest, out := .silent } := by
  induction n generalizing s with
  | zero => exact core_run_one (step_of_nothing hst hin)
  | succ n ih => exact (core_run_succ _ (step_of_nothing hst hin)).trans (ih hst rfl)

/-- Settles O28: one IDLE by its rule, and a run of them by induction on its length. -/
theorem idleChangesNothing : Obligations.IdleChangesNothing :=
  fun _ hst => ⟨exec_idle_eq_next.2 ⟨hst, rfl⟩, fun n rest => core_run_nothing n rest hst rfl⟩

/-! ### The operation and the item of an edge (R137, R150) -/

theorem transferred_of_filling (hst : s.st = .filling) (hr : s.pins.rst = false) : s.transferred = s.pins.beat := by
  simp [State.transferred, State.inReady, hst, hr]

theorem beat_isSome (p : Pins) : p.beat.isSome = p.inValid := by
  unfold Pins.beat
  split
  next h =>
    rw [h]
    split <;> rfl
  next h => exact (Bool.eq_false_of_not_eq_true h).symm

/-- A beat is transferred when it is offered in Filling without reset (R71). -/
theorem transferred_isSome_iff (s : State) :
    s.transferred.isSome = true ↔ s.pins.rst = false ∧ s.st = .filling ∧ s.pins.inValid = true := by
  cases hr : s.pins.rst with
  | true => simp [State.transferred, hr]
  | false =>
    cases hst : s.st with
    | checking => simp [transferred_of_checking hst]
    | filling => simp [transferred_of_filling hst hr, beat_isSome]

/-- Settles O32: the step is exec of the decoded word, which the cascade of R79 reads from the pins and `st`. -/
theorem stepPerformsTheSelectedOperation : Obligations.StepPerformsTheSelectedOperation := by
  intro s
  have hd := decodeOsw_osw s
  refine ⟨fun hr => ?reset, fun hr hc => ?check, fun hr hf hv he => ?push, fun hr hf hv he => ?eos,
    fun hr hf hv => ?idle, rfl, takeInput_eq s, transferred_isSome_iff s⟩ <;> rw [step, hd]
  case reset => simp [hr]
  case check => simp [hr, hc]
  case push => simp [hr, hf, hv, he]
  case eos => simp [hr, hf, hv, he]
  case idle => simp [hr, hf, hv]

theorem pins_of_head {x : Stim} {rest : List Stim} (hin : s.inputs = x :: rest) : s.pins = x.pins := by
  rw [State.pins, hin]

/-- An event stays when the edge finds it in Checking and it is no reset (R137). -/
theorem takeInput_inputs_of_event {e : Event} {rest : List Stim} (hin : s.inputs = .event e :: rest) :
    s.takeInput.inputs = if s.st = .checking ∧ e ≠ .reset then s.inputs else rest := by
  by_cases he : e = .reset
  · simp [State.takeInput, State.takes, hin, he]
  · cases hst : s.st <;> simp [State.takeInput, State.takes, hin, he, hst]

/-- Settles O33: pins last one edge, an event waits in Checking, and an empty environment stays empty. -/
theorem edgeUsesUpItsItem : Obligations.EdgeUsesUpItsItem := by
  intro s p e rest
  refine ⟨fun hin => ⟨pins_of_head hin, ?_⟩, fun hin => ⟨pins_of_head hin, takeInput_inputs_of_event hin⟩,
    fun hin => ⟨?_, ?_⟩⟩
  · simp [State.takeInput, State.takes, hin]
  · rw [State.pins, hin]
    rfl
  · simp [State.takeInput, hin]

/-! ### The transition table (R136, R137) -/

/-- A reset is taken in every state. -/
theorem step_of_reset_event {rest : List Stim} (hin : s.inputs = .event .reset :: rest) :
    step s = .next { s with window := [], st := .filling, inputs := rest, out := .silent } := by
  have hd : decodeOsw s.osw = .reset := by
    rw [decodeOsw_osw, pins_of_head hin]
    rfl
  have ht : s.takeInput = { s with inputs := rest } := by simp [State.takeInput, State.takes, hin]
  rw [step, hd, ht, exec_reset]

theorem transition_reset (c : Conf) : transition c .reset = some ((.filling, []), .silent) := by
  obtain ⟨q, w⟩ := c
  cases q <;> rfl

theorem transition_byte {w : List Byte} (hw : w.length < 30) (b : Byte) : transition (.filling, w) (.byte b) =
    some ((if w.length + 1 = 30 then .checking else .filling, w ++ [b]), .silent) := by
  simp only [transition]
  by_cases h : w.length ≤ 28
  · rw [if_pos h, if_neg (by omega)]
  · rw [if_neg h, if_pos (by omega), if_pos (by omega)]

/-- The three rows of an attempt are the end of the attempt. -/
theorem transition_checking {e : Event} (he : e ≠ .reset) {w : Codewords} (hw : s.window = w.toList) :
    transition (.checking, s.window) e =
      some ((.filling, (s.conclude (asm w)).window), (s.conclude (asm w)).out) := by
  have hfull : fullWindow s.window = some w := fullWindow_eq_some.2 hw
  rw [conclude_window, conclude_out, attemptOutput]
  cases e with
  | reset => exact absurd rfl he
  | byte b | endOfStream | nothing =>
    simp only [transition, hfull]
    generalize asm w = f
    cases val f <;> rfl

/-- The event next in the environment moves the machine along the table's row. -/
theorem transition_of_step {e : Event} {rest : List Stim} (hs : s.Inv) (hin : s.inputs = .event e :: rest)
    (h : step s = .next t) : transition (s.st, s.window) e = some ((t.st, t.window), t.out) := by
  by_cases he : e = .reset
  · subst he
    rw [step_of_reset_event hin] at h
    rw [transition_reset, ← Host.Outcome.next.inj h]
  cases hst : s.st with
  | checking =>
    obtain ⟨w, hw⟩ := exists_codewords_of_length (hs.2.1 hst)
    have hwait : WaitsInChecking s.inputs := by
      intro x hx
      rw [hin] at hx
      exact ⟨e, (Option.some.inj hx).symm, he⟩
    rw [step_of_waiting hst hw hwait] at h
    rw [transition_checking he hw, ← Host.Outcome.next.inj h, conclude_st]
  | filling =>
    cases e with
    | reset => exact absurd rfl he
    | byte b =>
      rw [step_of_byte hst hin] at h
      rw [transition_byte (hs.length_lt_of_filling hst), ← Host.Outcome.next.inj h]
    | endOfStream | nothing =>
      rw [step_of_silent_event hst hin nofun] at h
      rw [← Host.Outcome.next.inj h]
      rfl

/-- Settles O34: the legal state steps, along the row of the table. -/
theorem stepFollowsTheTransitionTable : Obligations.StepFollowsTheTransitionTable := by
  intro s e rest hs hin
  obtain ⟨t, ht⟩ := hs.exists_step
  refine ⟨t, ht, transition_of_step hs hin ht, step_payload_iff_good ht, ?_⟩
  rw [step_inputs ht, takeInput_inputs_of_event hin]

/-! ### The ports of a cycle (R151) -/

/-- A cycle either makes no attempt and its step presents nothing, or makes one and its step ends it. -/
theorem step_attempt_cases (h : step s = .next t) :
    (s.attemptFrame = none ∧ s.ports.evValid = false ∧ t.out = .silent) ∨
    (∃ (w : Codewords) (f : Frame), s.window = w.toList ∧ f = asm w ∧ s.attemptFrame = some f ∧
      s.ports.evValid = true ∧ t = s.takeInput.conclude f) := by
  have hfilling (hf : s.st = .filling) (hout : t.out = .silent) :
      s.attemptFrame = none ∧ s.ports.evValid = false ∧ t.out = .silent :=
    ⟨attemptFrame_of_filling hf, by simp [State.ports, hf], hout⟩
  rcases step_cases h with
    ⟨hr, ht⟩ | ⟨-, hf, -, -, ht⟩ | ⟨-, hf, -, -, ht⟩ | ⟨w, f, hr, hc, hw, hf, ht⟩ | ⟨-, hf, -, ht⟩
  · exact .inl ⟨attemptFrame_of_rst hr, by simp [State.ports, hr], by rw [ht]⟩
  · exact .inl (hfilling hf (by rw [ht]))
  · exact .inl (hfilling hf (by rw [ht]))
  · exact .inr ⟨w, f, hw, hf, hf ▸ attemptFrame_of_checking hr hc hw, by simp [State.ports, hr, hc], ht⟩
  · exact .inl (hfilling hf (by rw [ht]))

/-- The ports read CORE's state and `rst`, and nothing else. -/
theorem ports_congr (hw : s.window = s'.window) (hst : s.st = s'.st) (hr : s.pins.rst = s'.pins.rst) :
    s.ports = s'.ports := by
  simp only [State.ports, State.attemptFrame, State.inReady, State.len, hw, hst, hr]

theorem ports_winLen_toNat (hs : s.Inv) : s.ports.winLen.toNat = s.window.length := by
  have hl := hs.1
  simp only [State.ports, State.len, BitVec.toNat_ofNat]
  omega

theorem ports_evValid_iff (s : State) : s.ports.evValid = true ↔ s.pins.rst = false ∧ s.st = .checking := by
  simp [State.ports]

/-- Filling presents nothing on the ports. -/
theorem ports_of_filling (hf : s.st = .filling) : s.ports.evValid = false ∧ s.ports.outValid = false :=
  ⟨by simp [State.ports, hf], (ports_of_no_attempt (attemptFrame_of_filling hf)).2.1⟩

theorem code_eq_code_good_iff (v : Verdict) : v.code = 0b10#2 ↔ v = .good := by
  cases v <;> decide

/-- Settles O37: with no attempt the ports and the output are silent; with one both are functions of its frame. -/
theorem portsCarryTheOutputOfTheStep : Obligations.PortsCarryTheOutputOfTheStep := by
  refine ⟨fun s other => ⟨rfl, rfl, ports_congr rfl rfl⟩, fun s hs => ?_⟩
  obtain ⟨t, ht⟩ := hs.exists_step
  refine ⟨t, ht, rfl, ports_winLen_toNat hs, ports_evValid_iff s, ?_⟩
  rcases step_attempt_cases ht with ⟨hnone, hev, hout⟩ | ⟨w, f, hw, hf, hsome, hev, htc⟩
  · obtain ⟨hverdict, hvalid, hdata⟩ := ports_of_no_attempt hnone
    simp [hev, hout, hverdict, hvalid, hdata]
  · obtain ⟨hverdict, hvalid, hdata⟩ := ports_of_attempt hsome
    have hout : t.out = attemptOutput f := by rw [htc, conclude_out]
    have hnext := ports_of_filling (s := t) (by rw [htc, conclude_st])
    have hwin (w' : Codewords) (hw' : s.window = w'.toList) : asm w' = f := by
      rw [hf, Vector.toList_inj.1 (hw'.symm.trans hw)]
    rw [hev, hout, hverdict, hvalid, hdata, attemptOutput_payload_isSome, attemptOutput_payload_map]
    refine ⟨rfl, rfl, rfl, rfl, ?_, fun w' hw' _ => ?_, fun _ => hnext⟩
    · simp [code_eq_code_good_iff]
    · rw [hwin w' hw']
      exact ⟨rfl, beq_iff_eq, fun hg => if_pos (beq_iff_eq.1 hg)⟩

/-! ### Progress, and no history (R157, R158) -/

/-- Checking is left at the next edge. -/
theorem step_leaves_checking (hc : s.st = .checking) (h : step s = .next t) : t.st = .filling := by
  rcases step_cases h with ⟨-, ht⟩ | ⟨-, -, -, -, ht⟩ | ⟨-, hf, -⟩ | ⟨-, f, -, -, -, -, ht⟩ | ⟨-, hf, -⟩
  · rw [ht]
  · rw [ht]
  · exact nomatch hf.symm.trans hc
  · rw [ht, conclude_st]
  · exact nomatch hf.symm.trans hc

/-- Settles O48: the legal state steps, and in Filling an edge takes what is offered. -/
theorem checkingLastsOneStepAndFillingTakesEveryEvent :
    Obligations.CheckingLastsOneStepAndFillingTakesEveryEvent := by
  intro s hs
  obtain ⟨t, ht⟩ := hs.exists_step
  refine ⟨t, ht, fun hc => step_leaves_checking hc ht, transferred_of_filling, fun e rest hst hin => ?_⟩
  rw [step_inputs ht, takeInput_of_event hst hin]

/-- The states agree on CORE's state and on what is still to be presented. -/
structure SamePresent (s s' : State) : Prop where
  window : s.window = s'.window
  st : s.st = s'.st
  inputs : s.inputs = s'.inputs

theorem SamePresent.osw_eq (h : SamePresent s s') : s.osw = s'.osw := by
  have hp : s.pins = s'.pins := by rw [State.pins, h.inputs, State.pins]
  rw [State.osw, State.osw, hp, h.st]

theorem SamePresent.takeInput (h : SamePresent s s') : SamePresent s.takeInput s'.takeInput := by
  refine ⟨by simpa using h.window, by simpa using h.st, ?_⟩
  rcases hin : s'.inputs with _ | ⟨x, rest⟩
  · simp [State.takeInput, h.inputs, hin]
  · have htakes : s.takes x = s'.takes x := by cases x <;> simp [State.takes, h.st]
    simp only [State.takeInput, h.inputs, hin, htakes]
    split
    · rfl
    · exact h.inputs

/-- The word always selects one of the five operations, never a function row (R79). -/
theorem decodeOsw_wellFormed (w : Osw) : (decodeOsw w).wellFormed = true := by
  unfold decodeOsw
  repeat' split
  all_goals rfl

/-- An operation reads CORE's state alone, so states that agree answer alike. -/
theorem SamePresent.exec_alike {i : Instr} (hs : SamePresent s s') (hi : i.wellFormed = true)
    (h : exec i s = .next t) : ∃ t', exec i s' = .next t' ∧ SamePresent t t' ∧ t'.out = t.out := by
  rcases exec_cases h with ⟨he, ht⟩ | ⟨b, he, hst, ht⟩ | ⟨w, f, he, hst, hw, hf, ht⟩ | ⟨he, hst, ht⟩ | ⟨hn, -⟩
  · rw [ht]
    rcases he with he | ⟨he, hst⟩ <;> rw [he]
    · exact ⟨_, exec_reset s', ⟨rfl, rfl, hs.inputs⟩, rfl⟩
    · exact ⟨_, exec_eos_eq_next.2 ⟨hs.st ▸ hst, rfl⟩, ⟨rfl, rfl, hs.inputs⟩, rfl⟩
  · rw [he, ht]
    exact ⟨_, exec_push_eq_next.2 ⟨hs.st ▸ hst, rfl⟩, ⟨by rw [hs.window], by rw [hs.window], hs.inputs⟩, rfl⟩
  · rw [he, ht, hf]
    refine ⟨_, exec_check_of_window (hs.st ▸ hst) (hs.window ▸ hw), ⟨?_, ?_, ?_⟩, ?_⟩
    · rw [conclude_window, conclude_window, hs.window]
    · rw [conclude_st, conclude_st]
    · rw [conclude_inputs, conclude_inputs, hs.inputs]
    · rw [conclude_out, conclude_out]
  · rw [he, ht]
    exact ⟨_, exec_idle_eq_next.2 ⟨hs.st ▸ hst, rfl⟩, ⟨hs.window, hs.st, hs.inputs⟩, rfl⟩
  · exact nomatch hi.symm.trans hn

/-- Settles O49: the states agree, so their edges select the same operation and it answers alike. -/
theorem historyHasNoInfluence : Obligations.HistoryHasNoInfluence := by
  intro s s' t hw hst hin h
  have hs : SamePresent s s' := ⟨hw, hst, hin⟩
  obtain ⟨t', ht', hsame, hout⟩ := hs.takeInput.exec_alike (decodeOsw_wellFormed s.osw) h
  rw [hs.osw_eq] at ht'
  exact ⟨t', ht', hsame.window.symm, hsame.st.symm, hsame.inputs.symm, hout⟩

/-! ### PUSH and CHECK fused (R145) -/

/-- Events without a reset wait for the CHECK. -/
theorem events_wait {later : List Event} (h : .reset ∉ later) : WaitsInChecking (later.map .event) := by
  cases later with
  | nil => exact fun x hx => nomatch hx
  | cons e later =>
    intro x hx
    refine ⟨e, (Option.some.inj hx).symm, ?_⟩
    rintro rfl
    exact h List.mem_cons_self

/-- Settles O51: one step when the byte does not fill the window; when it does, the second step is the CHECK. -/
theorem pushThenCheckIsTheFusedStep : Obligations.PushThenCheckIsTheFusedStep := by
  intro s b later hst _ hreset hin
  have hpush := step_of_byte hst hin
  by_cases hfull : s.window.length + 1 = 30
  · rw [if_pos hfull] at hpush
    obtain ⟨c, hc⟩ := exists_codewords_of_length (l := s.window ++ [b]) (by simpa using hfull)
    have hcheck := step_of_waiting (s := { s with
      window := s.window ++ [b], st := .checking, inputs := later.map .event, out := .silent }) rfl hc
      (events_wait hreset)
    have hobs := step_observer hcheck
    have hsink := step_sink hcheck
    exact ⟨2, _, le_rfl, (core_run_succ 1 hpush).trans (core_run_one hcheck), conclude_st _ _,
      (pushCheck_of_full rfl hc).symm, conclude_inputs _ _, hobs, hsink⟩
  · rw [if_neg hfull] at hpush
    exact ⟨1, _, by decide, core_run_one hpush, rfl, (pushCheck_of_not_full hfull).symm, rfl,
      step_observer hpush, step_sink hpush⟩

/-! ### The loop `RUN(S)` without its fuel (R153) -/

/-- The frame of the attempt at an offset, if 30 bytes follow it. -/
def frameAt (stream : List Byte) (o : Nat) : Option Frame :=
  (fullWindow ((stream.drop o).take 30)).map asm

/-- The attempt at an offset on its frame. -/
def attemptAt (o : Nat) (f : Frame) : Attempt :=
  ⟨o, val f, if val f = .good then some (payloadOf f) else none⟩

theorem frameAt_eq_some {stream : List Byte} {o : Nat} {f : Frame} :
    frameAt stream o = some f ↔ ∃ w, (stream.drop o).take 30 = w.toList ∧ asm w = f := by
  simp only [frameAt, Option.map_eq_some_iff, fullWindow_eq_some]

theorem length_of_frameAt {stream : List Byte} {o : Nat} {f : Frame} (h : frameAt stream o = some f) :
    o + 30 ≤ stream.length := by
  obtain ⟨w, hw, -⟩ := frameAt_eq_some.1 h
  have hl := congrArg List.length hw
  rw [List.length_take, List.length_drop, Vector.length_toList] at hl
  omega

theorem exists_frameAt {stream : List Byte} {o : Nat} (h : o + 30 ≤ stream.length) :
    ∃ f, frameAt stream o = some f := by
  obtain ⟨w, hw⟩ := exists_codewords_of_length (l := (stream.drop o).take 30) (by simp; omega)
  exact ⟨asm w, frameAt_eq_some.2 ⟨w, hw, rfl⟩⟩

/-- An iteration of `RUN(S)` that makes an attempt, Good or failing. -/
theorem runFrom_of_attempt {stream : List Byte} {o : Nat} {f : Frame} (h : frameAt stream o = some f) (fuel : Nat) :
    runFrom stream (fuel + 1) o = (attemptAt o f :: (runFrom stream fuel (o + (val f).advance)).1,
      (runFrom stream fuel (o + (val f).advance)).2) := by
  obtain ⟨w, hw, hf⟩ := frameAt_eq_some.1 h
  rw [runFrom_succ, fullWindow_eq_some.2 hw, attemptAt, Verdict.advance]
  dsimp only
  rw [hf]
  split
  next hg => rw [hg]
  next => rfl

/-- `RUN(S)` from an offset makes these attempts and ends at that offset. -/
inductive RunsFrom (stream : List Byte) : Nat → List Attempt → Nat → Prop
  /-- Fewer than 30 bytes are left. -/
  | stop {o : Nat} (h : stream.length < o + 30) : RunsFrom stream o [] o
  /-- An attempt, and the rest of the run from the offset it moves on to. -/
  | attempt {o e : Nat} {f : Frame} {later : List Attempt} (hf : frameAt stream o = some f)
      (h : RunsFrom stream (o + (val f).advance) later e) : RunsFrom stream o (attemptAt o f :: later) e

/-- With fuel for every byte left, `runFrom` is the loop. -/
theorem runsFrom_runFrom {stream : List Byte} {fuel o : Nat} (hfuel : stream.length ≤ o + fuel) :
    RunsFrom stream o (runFrom stream fuel o).1 (runFrom stream fuel o).2 := by
  induction fuel generalizing o with
  | zero =>
    rw [runFrom_of_short (by omega)]
    exact .stop (by omega)
  | succ fuel ih =>
    by_cases h : o + 30 ≤ stream.length
    · obtain ⟨f, hf⟩ := exists_frameAt h
      have hpos := (val f).advance_pos
      rw [runFrom_of_attempt hf]
      exact .attempt hf (ih (by omega))
    · rw [runFrom_of_short (by omega)]
      exact .stop (by omega)

/-- `RUN(S)` is the loop from offset 0. -/
theorem runsFrom_attempts (stream : List Byte) : RunsFrom stream 0 (attempts stream) (endOffset stream) :=
  runsFrom_runFrom (Nat.zero_add _).ge

section
variable {stream : List Byte} {o e : Nat} {as : List Attempt}

/-! ### The machine runs the loop (R153) -/

/-- What an attempt presents. -/
def Attempt.output (a : Attempt) : Output :=
  ⟨some a.verdict, a.payload⟩

/-- The byte that fills the window brings the attempt with it, and the window moves on by what it discards. -/
theorem pushCheck_of_frame {w : List Byte} {b : Byte} {c : Codewords} {f : Frame} (hc : w ++ [b] = c.toList)
    (hf : asm c = f) : pushCheck w b = ((w ++ [b]).drop (val f).advance, attemptOutput f) := by
  have hl : (w ++ [b]).length = 30 := by rw [hc, Vector.length_toList]
  rw [drop_advance hl, attemptOutput, pushCheck, fullWindow_eq_some.2 hc]
  dsimp only
  rw [hf]
  split
  next hg => rw [hg]
  next => rfl

/-- What presents nothing delivers nothing. -/
theorem Delivers.of_silent (h : Delivers s t [.silent]) : Delivers s t [] :=
  ⟨h.observer, h.sink, h.probe⟩

/-- In a stream the next byte, or its end, waits for the CHECK. -/
theorem stream_waits (bytes : List Byte) (after : List Stim) :
    WaitsInChecking (bytes.map (fun b => Stim.event (.byte b)) ++ .event .endOfStream :: after) := by
  intro x hx
  cases bytes with
  | nil => exact ⟨.endOfStream, (Option.some.inj hx).symm, nofun⟩
  | cons b bytes => exact ⟨.byte b, (Option.some.inj hx).symm, nofun⟩

/-- From Filling, when the window and the bytes still to come are the stream from offset `o`, the machine makes the
attempts of `RUN(S)` from `o`: by induction on the bytes to come, each of which is one fused step. -/
theorem core_run_stream (bytes : List Byte) (after : List Stim) (hloop : RunsFrom stream o as e) (hs : s.Inv)
    (hst : s.st = .filling) (hsplit : s.window ++ bytes = stream.drop o)
    (hin : s.inputs = bytes.map (fun b => Stim.event (.byte b)) ++ .event .endOfStream :: after) :
    ∃ k t, Sys2Proof.core.run k s = .next t ∧ Delivers s t (as.map Attempt.output) ∧ t.window = [] ∧
      t.st = .filling ∧ t.inputs = after := by
  induction bytes generalizing s o as with
  | nil =>
    cases hloop with
    | stop =>
      have heos := step_of_silent_event hst hin nofun
      exact ⟨1, _, core_run_one heos, .of_silent_step heos rfl, rfl, rfl, rfl⟩
    | attempt hf =>
      have hle := length_of_frameAt hf
      have hlt := hs.length_lt_of_filling hst
      have hlen := congrArg List.length hsplit
      rw [List.append_nil, List.length_drop] at hlen
      omega
  | cons b bytes ih =>
    obtain ⟨j, u, hj, hu, hrest, hpc, hd⟩ := core_run_pushCheck hst hin (stream_waits bytes after)
    have hui : u.Inv := core_run_preserves (fun _ _ => step_preserves_inv) hs hj
    have hsplit' : (s.window ++ [b]) ++ bytes = stream.drop o := by rw [← hsplit, ← List.append_cons]
    by_cases hfull : s.window.length + 1 = 30
    · cases hloop with
      | stop h =>
        have hlen := congrArg List.length hsplit
        rw [List.length_append, List.length_cons, List.length_drop] at hlen
        omega
      | @attempt _ _ f later hf hloop' =>
        obtain ⟨c, hc, hfc⟩ := frameAt_eq_some.1 hf
        have hwl : (s.window ++ [b]).length = 30 := by simpa using hfull
        have hadv : (val f).advance ≤ (s.window ++ [b]).length := hwl ▸ (val f).advance_le
        rw [← hsplit', List.take_left' hwl] at hc
        rw [pushCheck_of_frame hc hfc, Prod.mk.injEq] at hpc
        obtain ⟨hwin, hout⟩ := hpc
        have hwin' : u.window ++ bytes = stream.drop (o + (val f).advance) := by
          rw [hwin, ← List.drop_append_of_le_length hadv, hsplit', List.drop_drop]
        obtain ⟨k, t, hk, hd', hend⟩ := ih hloop' hui hu hwin' hrest
        refine ⟨j + k, t, core_run_add hj hk, ?_, hend⟩
        rw [hout] at hd
        exact hd.trans hd'
    · rw [pushCheck_of_not_full hfull, Prod.mk.injEq] at hpc
      obtain ⟨hwin, hout⟩ := hpc
      obtain ⟨k, t, hk, hd', hend⟩ := ih hloop hui hu (by rw [hwin, hsplit']) hrest
      rw [hout] at hd
      exact ⟨j + k, t, core_run_add hj hk, hd.of_silent.trans hd', hend⟩

/-! ### Counting the bytes of a stream (R154) -/

/-- Each attempt moves the offset by the bytes it discards. -/
theorem RunsFrom.endOffset_eq (h : RunsFrom stream o as e) :
    e = o + 30 * (as.countP fun a => a.verdict == .good) + as.countP fun a => a.verdict != .good := by
  induction h with
  | stop => simp
  | @attempt o _ f _ _ _ ih =>
    have hv : (attemptAt o f).verdict = val f := rfl
    rw [ih, List.countP_cons, List.countP_cons, hv, Verdict.advance]
    by_cases hg : val f = .good
    · simp [hg]; omega
    · simp [hg]; omega

/-- The loop ends inside the stream, with fewer than 30 bytes left. -/
theorem RunsFrom.endOffset_bounds (h : RunsFrom stream o as e) (ho : o ≤ stream.length) :
    e ≤ stream.length ∧ stream.length < e + 30 := by
  induction h with
  | stop h => exact ⟨ho, h⟩
  | @attempt _ _ f _ hf _ ih =>
    have hle := length_of_frameAt hf
    have hadv := (val f).advance_le
    exact ih (by omega)

/-! ### The offsets that are tried (R155) -/

/-- Every attempt is the one at its offset on the frame there. -/
theorem RunsFrom.mem_eq (h : RunsFrom stream o as e) :
    ∀ a ∈ as, ∃ f, frameAt stream a.offset = some f ∧ a = attemptAt a.offset f := by
  induction h with
  | stop => exact nofun
  | attempt hf _ ih => exact List.forall_mem_cons.2 ⟨⟨_, hf, rfl⟩, ih⟩

theorem RunsFrom.le_offset (h : RunsFrom stream o as e) : ∀ a ∈ as, o ≤ a.offset := by
  induction h with
  | stop => exact nofun
  | attempt _ _ ih => exact List.forall_mem_cons.2 ⟨le_rfl, fun a ha => (Nat.le_add_right ..).trans (ih a ha)⟩

theorem RunsFrom.offset_head (h : RunsFrom stream o as e) {a : Attempt} (ha : as[0]? = some a) : a.offset = o := by
  cases h with
  | stop => exact nomatch ha
  | attempt => exact (congrArg Attempt.offset (Option.some.inj ha)).symm

/-- The attempt after `a` is at the offset that `a` moves on to. -/
theorem RunsFrom.offset_succ (h : RunsFrom stream o as e) {k : Nat} {a b : Attempt} (ha : as[k]? = some a)
    (hb : as[k + 1]? = some b) : b.offset = a.offset + a.verdict.advance := by
  induction h generalizing k with
  | stop => exact nomatch ha
  | attempt _ h ih =>
    cases k with
    | zero =>
      rw [← Option.some.inj ha]
      exact h.offset_head hb
    | succ k => exact ih ha hb

/-- The attempt reaches over the offset, so that `RUN(S)` never tries it. -/
def Attempt.Swallows (a : Attempt) (p : Nat) : Prop :=
  a.verdict = .good ∧ a.offset < p ∧ p < a.offset + 30

/-- An attempt swallows the offsets between its own and the one it moves on to. -/
theorem attemptAt_swallows_iff (o : Nat) (f : Frame) (p : Nat) :
    (attemptAt o f).Swallows p ↔ o < p ∧ p < o + (val f).advance := by
  by_cases hg : val f = .good <;> simp [Attempt.Swallows, attemptAt, Verdict.advance, hg]

/-- From `o` on, an offset is tried if 30 bytes follow it and no attempt swallows it. -/
theorem RunsFrom.tried_iff (h : RunsFrom stream o as e) {p : Nat} (hp : o ≤ p) :
    (∃ a ∈ as, a.offset = p) ↔ p + 30 ≤ stream.length ∧ ¬ ∃ a ∈ as, a.Swallows p := by
  induction h with
  | stop h =>
    refine iff_of_false (fun ⟨_, ha, _⟩ => nomatch ha) fun ⟨hle, _⟩ => ?_
    omega
  | @attempt o _ f later hf h ih =>
    have hle := length_of_frameAt hf
    have hpos := (val f).advance_pos
    have hlater := h.le_offset
    rw [List.exists_mem_cons_iff, List.exists_mem_cons_iff]
    simp only [attemptAt_swallows_iff, show (attemptAt o f).offset = o from rfl]
    rcases Nat.lt_or_ge p (o + (val f).advance) with hlt | hge
    · -- no later attempt is at `p`, and none swallows it
      have hoff : ¬ ∃ a ∈ later, a.offset = p := fun ⟨a, ha, hap⟩ => by have := hlater a ha; omega
      have hsw : ¬ ∃ a ∈ later, a.Swallows p := fun ⟨a, ha, hap⟩ => by
        have := hlater a ha
        have := hap.2.1
        omega
      simp only [hoff, hsw, or_false]
      omega
    · rw [or_iff_right (by omega), or_iff_right (by omega)]
      exact ih hge

/-! ### A lost frame (R156) -/

/-- Where no window from `o` to `o + n` is Good, the loop makes `n` failing attempts and goes on from `o + n`. -/
theorem RunsFrom.failing_run {n : Nat} (h : RunsFrom stream o as e)
    (hbad : ∀ p f, p < o + n → frameAt stream p = some f → val f ≠ .good) (hlen : o + n + 30 ≤ stream.length) :
    ∃ failed later, as = failed ++ later ∧ failed.map (fun a => a.offset) = List.range' o n ∧
      (∀ a ∈ failed, a.verdict ≠ .good ∧ a.payload = none) ∧ RunsFrom stream (o + n) later e := by
  induction n generalizing o as with
  | zero => exact ⟨[], as, rfl, rfl, nofun, h⟩
  | succ n ih =>
    cases h with
    | stop h => omega
    | @attempt _ _ f later hf h =>
      have hfail : val f ≠ .good := hbad o f (by omega) hf
      rw [Verdict.advance, if_neg hfail] at h
      obtain ⟨failed, rest, has, hoff, hall, hrest⟩ :=
        ih h (fun p g hp => hbad p g (by omega)) (by omega)
      refine ⟨attemptAt o f :: failed, rest, congrArg _ has, ?_, List.forall_mem_cons.2 ⟨⟨hfail, ?_⟩, hall⟩, ?_⟩
      · rw [List.map_cons, hoff]
        rfl
      · exact if_neg hfail
      · rwa [Nat.add_right_comm, Nat.add_assoc] at hrest

end

/-- Settles O52: the stream is the window and the bytes to come, from offset 0. -/
theorem streamRunsAsTheLoop : Obligations.StreamRunsAsTheLoop := by
  intro s stream after hst hwin hin
  have hs : s.Inv := inv_of_filling hst (by simp [hwin])
  obtain ⟨k, t, hrun, hd, hwin', hst', hin'⟩ :=
    core_run_stream stream after (runsFrom_attempts stream) hs hst (by simp [hwin]) hin
  refine ⟨k, t, hrun, ?_, ?_, hwin', hst', hin', hd.probe⟩
  · rw [hd.observer, List.filterMap_map]
    exact congrArg _ (congrFun List.filterMap_eq_map _)
  · rw [hd.sink, List.filterMap_map]
    rfl

/-- Settles O53: the bytes that the attempts discard, and what is left at the end. -/
theorem everyByteOfAStreamIsAccountedFor : Obligations.EveryByteOfAStreamIsAccountedFor := by
  intro stream
  have hloop := runsFrom_attempts stream
  obtain ⟨hle, hlt⟩ := hloop.endOffset_bounds (Nat.zero_le _)
  have hend := hloop.endOffset_eq
  refine ⟨⟨stream.length - endOffset stream, by omega, by omega, by omega⟩, ?_, fun hshort => ?_⟩
  · rw [List.length_eq_countP_add_countP fun a => a.verdict == .good]
    exact congrArg _ (List.countP_congr fun a _ => by simp)
  · rw [attempts, runFrom_of_short (by omega)]

/-- Settles O54: the facts about the loop, from offset 0. -/
theorem offsetIsTriedUnlessAGoodAttemptSwallowsIt : Obligations.OffsetIsTriedUnlessAGoodAttemptSwallowsIt := by
  intro stream p
  have hloop := runsFrom_attempts stream
  refine ⟨hloop.tried_iff (Nat.zero_le p), fun a => hloop.offset_head, fun k a b => hloop.offset_succ,
    fun a ha => ?_⟩
  obtain ⟨f, hf, ha'⟩ := hloop.mem_eq a ha
  obtain ⟨w, hw, hfw⟩ := frameAt_eq_some.1 hf
  refine ⟨w, fullWindow_eq_some.2 hw, ?_, ?_⟩ <;> rw [ha', hfw] <;> rfl

/-- Settles O55: the loop fails 30 times, and the attempt at 30 is the last one the stream has bytes for. -/
theorem lostFrameCostsThirtyAttempts : Obligations.LostFrameCostsThirtyAttempts := by
  intro stream w hlen hdrop hgood hbad
  have hframe : frameAt stream 30 = some (asm w) := by
    refine frameAt_eq_some.2 ⟨w, ?_, rfl⟩
    rw [hdrop, List.take_of_length_le Vector.length_toList.le]
  have hfail : ∀ p f, p < 0 + 30 → frameAt stream p = some f → val f ≠ .good := by
    intro p f hp hf
    obtain ⟨x, hx, hfx⟩ := frameAt_eq_some.1 hf
    exact hfx ▸ hbad p x (by omega) hx
  obtain ⟨failed, later, has, hoff, hall, hrest⟩ := (runsFrom_attempts stream).failing_run hfail (by omega)
  generalize endOffset stream = e at hrest
  have hlater : later = [⟨30, .good, some (payloadOf (asm w))⟩] := by
    cases hrest with
    | stop h => omega
    | attempt hf h =>
      rw [← Option.some.inj (hframe.symm.trans hf), Verdict.advance, if_pos hgood] at h
      rw [← Option.some.inj (hframe.symm.trans hf), attemptAt, if_pos hgood, hgood]
      cases h with
      | stop => rfl
      | attempt hf =>
        have := length_of_frameAt hf
        omega
  rw [has, hlater]
  refine ⟨?_, List.getLast?_concat, ?_⟩
  · rw [List.map_append, hoff, List.range_eq_range']
    rfl
  · rwa [List.dropLast_concat]

end Sys2Proof.Machine
end

section

/-! PROOFS. The family of spec/60_exceptions.md: every operation is total on every reachable state (R170). -/

namespace Sys2Proof.Machine

/-- Settles O47, by induction on the run: a legal state steps (`State.Inv.exists_step`), to a legal state. -/
theorem noRunFromALegalStateStops : Obligations.NoRunFromALegalStateStops := by
  intro n
  induction n with
  | zero => exact fun s hs => ⟨s, core_run_zero s, hs⟩
  | succ n ih =>
    intro s hs
    obtain ⟨u, hstep⟩ := hs.exists_step
    obtain ⟨t, hrun, ht⟩ := ih u (step_preserves_inv hs hstep)
    exact ⟨t, (core_run_succ n hstep).trans hrun, ht⟩

end Sys2Proof.Machine
end

section

/-! PROOFS. The family of spec/70_reset_and_hazards.md: RESET at every edge with `rst` (R200), the cycle it suppresses
(R201), and the outputs and values it leaves (R202, R31). -/

namespace Sys2Proof.Machine

variable {s t : State}

/-! ### An edge with `rst` (R200, R201) -/

theorem transferred_of_rst (hr : s.pins.rst = true) : s.transferred = none :=
  if_pos hr

/-- An edge with `rst` performs RESET, whatever the state and the other pins (R200). -/
theorem step_of_rst (hr : s.pins.rst = true) :
    step s = .next { s.takeInput with window := [], st := .filling, out := .silent } := by
  rw [step, decodeOsw_osw, if_pos hr, exec_reset]

/-- A cycle with `rst` presents nothing on the ports (R201). -/
theorem ports_of_rst (hr : s.pins.rst = true) : s.ports.evValid = false ∧ s.ports.outValid = false :=
  ⟨by simp [State.ports, hr], (ports_of_no_attempt (attemptFrame_of_rst hr)).2.1⟩

/-- Settles O22: the rule of RESET, and the edge that performs it. -/
theorem resetEmptiesTheWindow : Obligations.ResetEmptiesTheWindow :=
  fun s => ⟨exec_reset s, fun hr => ⟨transferred_of_rst hr, step_of_rst hr⟩⟩

/-- Settles O39: the cycle is silent on the ports, and its edge uses up an input and delivers nothing. -/
theorem resetSuppressesTheCycle : Obligations.ResetSuppressesTheCycle := by
  intro s hr
  obtain ⟨hev, hout⟩ := ports_of_rst hr
  exact ⟨hev, hout, transferred_of_rst hr, _, step_of_rst hr, rfl, rfl, rfl,
    takeInput_observer s, takeInput_sink s, takeInput_probe s⟩

/-! ### The cycle after it (R202) -/

/-- The ports of a cycle in Filling on an empty window. -/
theorem ports_of_filling_of_empty (hf : s.st = .filling) (hw : s.window = []) :
    s.ports.inReady = true ∧ s.ports.winLen = 0#5 ∧ s.ports.evValid = false ∧ s.ports.outValid = false :=
  ⟨by simp [State.ports, State.inReady, hf], by simp [State.ports, State.len, hw], ports_of_filling hf⟩

/-- Settles O40: the reset edge leaves the empty window in Filling, whose ports are those of R202. -/
theorem outputsAndValuesAfterReset : Obligations.OutputsAndValuesAfterReset := by
  refine ⟨fun s t hr h _ => ?_, rfl, rfl, rfl⟩
  have ht := Host.Outcome.next.inj ((step_of_rst hr).symm.trans h)
  rw [← ht]
  exact ports_of_filling_of_empty rfl rfl

end Sys2Proof.Machine
end

section

/-! PROOFS. Beside the rules: PUSH on a window that no run reaches (R32; the model's choice, log entry 9). -/

namespace Sys2Proof.Machine

/-- Settles O57: the appended byte is past the 30th, so PUSH leaves `st` in Filling, as it was. -/
theorem pushOnAnUnreachableWindowAppends : Obligations.PushOnAnUnreachableWindowAppends := by
  intro b s hst hlen
  have hpast : s.window.length + 1 ≠ 30 := by omega
  refine exec_push_eq_next.2 ⟨hst, ?_⟩
  rw [if_neg hpast, ← hst]

end Sys2Proof.Machine
end
